-- ==== Sys2Proof/Word.lean ====
section
/-! DEFINITION. The words of the UPB frame codec block: bytes, nibbles, the 16-bit control word, byte sequences and hex
strings (00_scope.md R8, R12, R13). -/

namespace Sys2Proof

/-- A byte: 8 bits, an unsigned value 0..255 (R8). -/
abbrev Byte := BitVec 8

/-- One hexadecimal digit's value, 0..15 (R13). -/
abbrev Nibble := BitVec 4

/-- A control word: an unsigned 16-bit value (R8, R62). -/
abbrev ControlWord := BitVec 16

/-- A finite list of bytes; index 0 is the first byte on the wire (R12, R41). -/
abbrev Bytes := List Byte

/-- A finite list of characters (R13). That each is ASCII is a check of WellFormed. -/
abbrev Hex := List Char

end Sys2Proof
end

