-- ==== Sys2Proof/Syntax.lean ====
section
/-! DEFINITION. The operations of the block, one constructor per row of spec/opcode_table.json, with the operand
records of 30_encoding.md R82, and the request that selects one of them (R80, R82). -/

namespace Sys2Proof

/-- The identity of a callback (R7, R25): two handlers are the same callback exactly when they are equal here.
DESIGN CHOICE: the spec's parameter type is read as numbered identities (safe; log entry 4). -/
structure Handler where
  id : Nat
  deriving DecidableEq, Repr

/-- The caller's addressing record (R26). `channel` is absent or a 0-based index. -/
structure Address where
  networkId    : Byte
  targetId     : Byte
  channel      : Option Nat
  isLink       : Bool
  isDevice     : Bool
  multiChannel : Bool
  deriving DecidableEq, Repr

/-- The record `unpack` returns, the six fields of a control word with their widths (R24, R62, R100). -/
structure CwFields where
  link        : Bool
  repeaterReq : BitVec 2
  length      : BitVec 5
  ackReq      : BitVec 3
  txCount     : BitVec 2
  txSeq       : BitVec 2
  deriving DecidableEq, Repr

/-- The record DECODE returns, its fields in the spec's order (R24). -/
structure DecodedMessage where
  link        : Bool
  repeaterReq : BitVec 2
  length      : BitVec 5
  ackReq      : BitVec 3
  txCount     : BitVec 2
  txSeq       : BitVec 2
  networkId   : Byte
  destId      : Byte
  srcId       : Byte
  msgId       : Byte
  data        : Bytes
  deriving DecidableEq, Repr

/-- ENCODE's control-word operand: the sentinel `auto` or an integer (R82, R135). -/
inductive CwOperand where
  | auto
  | word (cw : Int)
  deriving DecidableEq, Repr

/-- The block's operations (R80), each with its operand record in the order of R82. Integer operands are mathematical
integers (R14); their ranges are checked by the operation, not here. -/
inductive Instr where
  /-- OP 0x00, R101. -/
  | unpackCw (cw : Int)
  /-- OP 0x01, R102. -/
  | decode (frame : Bytes)
  /-- OP 0x02, R106. -/
  | register (code : Byte) (h : Handler)
  /-- OP 0x03, R108. -/
  | dispatch (msg : DecodedMessage)
  /-- OP 0x04, R121. -/
  | cksumGen (frame : Bytes)
  /-- OP 0x05, R122. -/
  | cksumVerify (frame : Bytes)
  /-- OP 0x06, R130. -/
  | buildCw (addr : Address) (rep ack : Int)
  /-- OP 0x07, R135. -/
  | encode (cw : CwOperand) (addr : Address) (src cmd : Int) (payload : Bytes)
  /-- OP 0x08, R142. -/
  | hexSerialize (frame : Bytes)
  /-- OP 0x09, R143. -/
  | hexParse (text : Hex)
  /-- OP 0x0A, R152. -/
  | levelPayload (addr : Address) (level rate : Int)
  /-- OP 0x0B, R153. -/
  | encActivate (addr : Address) (src : Int)
  /-- OP 0x0C, R154. -/
  | encDeactivate (addr : Address) (src : Int)
  /-- OP 0x0D, R155. -/
  | encGoto (addr : Address) (src level rate : Int)
  /-- OP 0x0E, R156. -/
  | encFadeStart (addr : Address) (src level rate : Int)
  /-- OP 0x0F, R157. -/
  | encFadeStop (addr : Address) (src : Int)
  /-- OP 0x10, R158. -/
  | encBlink (addr : Address) (src rate : Int)
  /-- OP 0x11, R159. -/
  | encReportState (addr : Address) (src : Int)
  /-- OP 0x12, R170. -/
  | incTx (text : Hex)
  deriving DecidableEq, Repr

/-- What the ARGS port carries (R22, R82): every operand R82 names, under its own name. An operation reads the operands
R82 gives it and no other, so a record of the wrong shape for an OP cannot be formed (R82: "well-typed by
construction"). `cw` is UNPACK_CW's integer, `encCw` is ENCODE's operand of the same name, which may also be `auto`.
`rep` and `ack` may be left out, since R82 gives them a default.
DESIGN CHOICE: one record of all operands stands for the nineteen records of R82 (safe; log entry 3). -/
structure Args where
  cw      : Int
  encCw   : CwOperand
  frame   : Bytes
  code    : Byte
  handler : Handler
  msg     : DecodedMessage
  addr    : Address
  rep     : Option Int
  ack     : Option Int
  src     : Int
  cmd     : Int
  payload : Bytes
  text    : Hex
  level   : Int
  rate    : Int
  deriving DecidableEq, Repr

/-- A request: the OP byte and the operand record (R9, R22, R80). -/
structure Request where
  op   : Byte
  args : Args
  deriving DecidableEq, Repr

end Sys2Proof
end

