-- ==== Sys2Proof/Decode.lean ====
section
/-! DEFINITION. The request decoder (30_encoding.md R80, R81, R82), total on every OP byte, and the encoder beside it,
written from the same table. -/

namespace Sys2Proof

/-- Why a request selects no operation. -/
inductive DecodeError where
  /-- OP 0x13..0xFF (R81). -/
  | illegalOp (op : Byte)
  deriving DecidableEq, Repr

/-- The default of BUILD_CW's `rep` and `ack` operands (R82, R130: "default 0"). -/
def defaultOperand (v : Option Int) : Int := v.getD 0

/-- The operation a request selects (R80), with the operands R82 gives it. -/
def decodeRequest (r : Request) : Except DecodeError Instr :=
  let a := r.args
  match r.op.toNat with
  | 0x00 => .ok (.unpackCw a.cw)
  | 0x01 => .ok (.decode a.frame)
  | 0x02 => .ok (.register a.code a.handler)
  | 0x03 => .ok (.dispatch a.msg)
  | 0x04 => .ok (.cksumGen a.frame)
  | 0x05 => .ok (.cksumVerify a.frame)
  | 0x06 => .ok (.buildCw a.addr (defaultOperand a.rep) (defaultOperand a.ack))
  | 0x07 => .ok (.encode a.encCw a.addr a.src a.cmd a.payload)
  | 0x08 => .ok (.hexSerialize a.frame)
  | 0x09 => .ok (.hexParse a.text)
  | 0x0A => .ok (.levelPayload a.addr a.level a.rate)
  | 0x0B => .ok (.encActivate a.addr a.src)
  | 0x0C => .ok (.encDeactivate a.addr a.src)
  | 0x0D => .ok (.encGoto a.addr a.src a.level a.rate)
  | 0x0E => .ok (.encFadeStart a.addr a.src a.level a.rate)
  | 0x0F => .ok (.encFadeStop a.addr a.src)
  | 0x10 => .ok (.encBlink a.addr a.src a.rate)
  | 0x11 => .ok (.encReportState a.addr a.src)
  | 0x12 => .ok (.incTx a.text)
  | _ => .error (.illegalOp r.op)

/-- An Address of zeros. -/
def zeroAddress : Address :=
  { networkId := 0, targetId := 0, channel := none, isLink := false, isDevice := false, multiChannel := false }

/-- A decoded message of zeros. -/
def zeroMessage : DecodedMessage :=
  { link := false, repeaterReq := 0, length := 0, ackReq := 0, txCount := 0, txSeq := 0,
    networkId := 0, destId := 0, srcId := 0, msgId := 0, data := [] }

/-- The operand record of zeros: what an operation's operands are where no bit of them is given (log entry 3). -/
def zeroArgs : Args :=
  { cw := 0, encCw := .word 0, frame := [], code := 0, handler := ⟨0⟩, msg := zeroMessage, addr := zeroAddress,
    rep := none, ack := none, src := 0, cmd := 0, payload := [], text := [], level := 0, rate := 0 }

/-- The OP code of an operation (R80). -/
def opCode : Instr → Byte
  | .unpackCw _ => 0x00
  | .decode _ => 0x01
  | .register _ _ => 0x02
  | .dispatch _ => 0x03
  | .cksumGen _ => 0x04
  | .cksumVerify _ => 0x05
  | .buildCw _ _ _ => 0x06
  | .encode _ _ _ _ _ => 0x07
  | .hexSerialize _ => 0x08
  | .hexParse _ => 0x09
  | .levelPayload _ _ _ => 0x0A
  | .encActivate _ _ => 0x0B
  | .encDeactivate _ _ => 0x0C
  | .encGoto _ _ _ _ => 0x0D
  | .encFadeStart _ _ _ _ => 0x0E
  | .encFadeStop _ _ => 0x0F
  | .encBlink _ _ _ => 0x10
  | .encReportState _ _ => 0x11
  | .incTx _ => 0x12

/-- The operand record of an operation (R82); the operands it does not have are those of `zeroArgs`. -/
def operandsOf : Instr → Args
  | .unpackCw cw => { zeroArgs with cw := cw }
  | .decode frame => { zeroArgs with frame := frame }
  | .register code h => { zeroArgs with code := code, handler := h }
  | .dispatch msg => { zeroArgs with msg := msg }
  | .cksumGen frame => { zeroArgs with frame := frame }
  | .cksumVerify frame => { zeroArgs with frame := frame }
  | .buildCw addr rep ack => { zeroArgs with addr := addr, rep := some rep, ack := some ack }
  | .encode cw addr src cmd payload =>
    { zeroArgs with encCw := cw, addr := addr, src := src, cmd := cmd, payload := payload }
  | .hexSerialize frame => { zeroArgs with frame := frame }
  | .hexParse text => { zeroArgs with text := text }
  | .levelPayload addr level rate => { zeroArgs with addr := addr, level := level, rate := rate }
  | .encActivate addr src => { zeroArgs with addr := addr, src := src }
  | .encDeactivate addr src => { zeroArgs with addr := addr, src := src }
  | .encGoto addr src level rate => { zeroArgs with addr := addr, src := src, level := level, rate := rate }
  | .encFadeStart addr src level rate => { zeroArgs with addr := addr, src := src, level := level, rate := rate }
  | .encFadeStop addr src => { zeroArgs with addr := addr, src := src }
  | .encBlink addr src rate => { zeroArgs with addr := addr, src := src, rate := rate }
  | .encReportState addr src => { zeroArgs with addr := addr, src := src }
  | .incTx text => { zeroArgs with text := text }

/-- The request that selects an operation with its operands (R80, R82). -/
def encodeRequest (i : Instr) : Request := { op := opCode i, args := operandsOf i }

/-- The request whose OP bits are `w` and whose operands are zeros. -/
def tableRequest (w : Nat) : Request := { op := BitVec.ofNat 8 w, args := zeroArgs }

/-- What the decoder reads from the `nbits` bits `w` of a row of spec/opcode_table.json. The table gives every row the
8 bits of the OP port; more bits than the port has are no request. -/
def decodeTableWord (nbits w : Nat) : Option Instr :=
  if nbits ≤ 8 ∧ w < 2 ^ nbits then
    match decodeRequest (tableRequest w) with
    | .ok i => some i
    | .error _ => none
  else none

end Sys2Proof
end

