-- ==== Sys2Proof/Config.lean ====
section
/-! DEFINITION. What the spec leaves to the implementation: the OPEN parameters of 00_scope.md R7 as plain data, and
the free values, which have no body, so that nothing can be proved of what they are. The fixed constants of R7 stand in
Machine/Params.lean. -/

namespace Sys2Proof

/-- The command names the spec lists (30_encoding.md R72). -/
inductive Command where
  | activate
  | deactivate
  | goto
  | fadeStart
  | fadeStop
  | blink
  | reportState
  | deviceStateReport
  | registerValuesReport
  deriving DecidableEq, Repr

/-- The parameter CMD_CODE: one byte for each command name (R7, R72, D4). -/
structure CmdCodes where
  activate             : Byte
  deactivate           : Byte
  goto                 : Byte
  fadeStart            : Byte
  fadeStop             : Byte
  blink                : Byte
  reportState          : Byte
  deviceStateReport    : Byte
  registerValuesReport : Byte
  deriving DecidableEq, Repr

/-- The parameter LEN_MERGE: how ENCODE puts the length into an explicit control word (R7, R138, D5). -/
inductive LenMerge where
  | replace
  | or
  deriving DecidableEq, Repr, Inhabited

/-- The OPEN parameters that are values (R7). They are fixed when the block is built (R233): no step writes them.
They stand in State because exec takes an instruction and a state only; a statement for every state is therefore a
statement for every value of the parameters, as R7 asks ("arguments of the model"). -/
structure Params where
  cmd      : CmdCodes
  lenMerge : LenMerge
  deriving DecidableEq, Repr

/-- The value LEN_MERGE has in the machine after reset: the spec does not settle it (R138, D5, I8). A free value
(log entry 6). -/
opaque Config.lenMerge : LenMerge

/-- The transmit-count source's answer to its `n`-th query (counted from 0), asked for a network id and a target id,
where State lists no answer: the spec gives the source no law (R27, D18, I9). A free value (DESIGN CHOICE, safe; log entry 7). -/
opaque Config.txAnswer (n : Nat) (networkId targetId : Byte) : Int

end Sys2Proof
end

