-- ==== Sys2Proof/Machine/Params.lean ====
section
/-! DEFINITION. The constants of the block (00_scope.md R7) and the parameter CMD_CODE: its default table and its
lookup (30_encoding.md R72). -/

namespace Sys2Proof.Machine

/-- `HDR_LEN`: the header is 6 bytes (R7, R60). -/
@[simp] abbrev hdrLen : Nat := 6

/-- `LEN_OFFSET`: header and checksum, 7 bytes (R7, R137). -/
@[simp] abbrev lenOffset : Nat := 7

/-- `MAX_FRAME_LEN`: the length field's largest value (R7, R66). -/
@[simp] abbrev maxFrameLen : Nat := 31

/-- `MAX_PAYLOAD`: 31 - 7 bytes (R7, R66). -/
@[simp] abbrev maxPayload : Nat := 24

/-- `TX_COUNT_MAX_FIELD`: the tx_count field's largest value (R7, R173). -/
@[simp] abbrev txCountMaxField : Nat := 3

/-- `RATE_DEFAULT_SENTINEL`: the rate that means "no rate given" (R7, R151). -/
@[simp] abbrev rateDefaultSentinel : Int := -1

/-- `RATE_DEFAULT_BYTE`: what a multi-channel payload writes for no rate (R7, R69). -/
@[simp] abbrev rateDefaultByte : Byte := 0xFF

/-- The byte CMD_CODE gives a command name (R72). -/
def cmdCode (codes : CmdCodes) : Command → Byte
  | .activate => codes.activate
  | .deactivate => codes.deactivate
  | .goto => codes.goto
  | .fadeStart => codes.fadeStart
  | .fadeStop => codes.fadeStop
  | .blink => codes.blink
  | .reportState => codes.reportState
  | .deviceStateReport => codes.deviceStateReport
  | .registerValuesReport => codes.registerValuesReport

/-- Every command name, in the order of R72's table. -/
def commandNames : List Command :=
  [.activate, .deactivate, .goto, .fadeStart, .fadeStop, .blink, .reportState, .deviceStateReport,
   .registerValuesReport]

/-- "The map must be injective" (R72): no two names have one byte. -/
def cmdCodesInjective (codes : CmdCodes) : Bool := decide ((commandNames.map (cmdCode codes)).Nodup)

/-- The default CMD_CODE of R72's table. PRESUMED: the spec marks these bytes "from general knowledge, not in source"
(GK1; unsafe; log entry 5). -/
def defaultCmdCodes : CmdCodes :=
  { activate := 0x20, deactivate := 0x21, goto := 0x22, fadeStart := 0x23, fadeStop := 0x24, blink := 0x25,
    reportState := 0x30, deviceStateReport := 0x86, registerValuesReport := 0x90 }

end Sys2Proof.Machine
end

