-- ==== Sys2Proof/Machine/State.lean ====
section
/-! DEFINITION. The state of the block and of the agents around it, as plain data (10_state.md), the reasons a step can
stop, and the state after reset. The block has no register file, no program counter, no flags, no memory and no modes
(R20, R21, R23, R29, R30, R40, R210), so State holds its ports, the registry, the event history, the source's answers,
the parameters and the host's request list. -/

namespace Sys2Proof.Machine

/-- The operand a ContractViolation names (R202). -/
inductive ContractField where
  | cw
  | repeaterReq
  | ackReq
  | txCount
  | src
  | cmd
  deriving DecidableEq, Repr

/-- The operand an ArgRange names (R202). -/
inductive ArgField where
  | level
  | rate
  | channel
  deriving DecidableEq, Repr

/-- A fault response of the block: the constructor is the fault's name (R201), its arguments are the FINFO record
(R202). It is an answer to a request and stops nothing (R200, R206). -/
inductive BlockFault where
  /-- Fewer bytes than the operation needs; the byte count of the rejected sequence. -/
  | malformedFrame (length : Nat)
  /-- The frame would have more than 31 bytes; 7 + len(payload). -/
  | frameTooLong (total : Nat)
  /-- An integer operand outside its field, or a transmit-count answer outside 1..4. -/
  | contractViolation (field : ContractField) (value : Int)
  /-- An Address whose is_link equals its is_device. -/
  | badAddress (isLink isDevice : Bool)
  /-- A level, rate or channel outside its range; `none` is an absent channel. -/
  | argRange (field : ArgField) (value : Option Int)
  /-- A hex string of odd length or with a character that is no hex digit; the position. -/
  | malformedHex (index : Nat)
  /-- An OP value that selects no operation. -/
  | illegalOp (op : Byte)
  deriving DecidableEq, Repr

/-- The RESULT port, one constructor per result type of R31. -/
inductive Result where
  /-- UNPACK_CW. -/
  | fields (f : CwFields)
  /-- DECODE. -/
  | message (m : DecodedMessage)
  /-- REGISTER. -/
  | unit
  /-- DISPATCH: (network_id, src_id, tx_count_plus_one). -/
  | summary (networkId srcId : Byte) (txCountPlusOne : Nat)
  /-- CKSUM_GEN. -/
  | byte (b : Byte)
  /-- CKSUM_VERIFY. -/
  | bool (b : Bool)
  /-- BUILD_CW. -/
  | word (w : ControlWord)
  /-- ENCODE, the ENC_* operations, INC_TX, HEX_SERIALIZE. -/
  | hex (t : Hex)
  /-- LEVEL_PAYLOAD, HEX_PARSE. -/
  | bytes (bs : Bytes)
  deriving DecidableEq, Repr

/-- What stands on the response port: STATUS = Ok with RESULT and INVOKE, or STATUS = Fault with FCODE and FINFO (R22,
R200). `invoke` is the INVOKE port, which only DISPATCH drives. -/
inductive Response where
  | ok (result : Result) (invoke : Option (List Handler))
  | fault (f : BlockFault)
  deriving DecidableEq, Repr

/-- One exchange on the ports TXQ_REQ and TXQ_ANS (R22, R27). -/
structure TxqExchange where
  networkId : Byte
  targetId  : Byte
  answer    : Int
  deriving DecidableEq, Repr

/-- The events HIST records (R28). -/
inductive Event where
  | txQuery (networkId targetId : Byte) (answer : Int)
  | registered (code : Byte) (h : Handler) (added : Bool)
  | dispatched (code : Byte) (hs : List Handler)
  deriving DecidableEq, Repr

/-- The handler registry REG (R25, R30) in one canonical form: the codes strictly rising, no listed entry empty; the
entry of an unlisted code is the empty list. -/
abbrev Registry := List (Byte × List Handler)

/-- Why the machine stops with a fault. No constructor: the spec's faults are responses, after which the block serves
the next request (R200, R206), and no rule makes the block stop or hang (93_implementation_defined.md, below table 1).
Safe: nothing is stopped that the spec lets go on. -/
inductive Fault
  deriving DecidableEq, Repr

/-- Why the machine has no meaning for a step. -/
inductive Refusal where
  /-- Raised by an arm of exec that has no meaning yet, with its row's mnemonic; no arm raises it now. Safe. -/
  | notModelled (mnemonic : String)
  deriving DecidableEq, Repr

/-- The block between two steps, with the agents it meets. -/
structure State where
  /-- The OP and ARGS ports: the request of the transaction in progress, if one is (R22). -/
  request : Option Request
  /-- The STATUS, RESULT, INVOKE, FCODE and FINFO ports: the last response, if one has been given (R22, R32). -/
  response : Option Response
  /-- The TXQ_REQ and TXQ_ANS ports: the exchange of the transaction that is being or was last served, if it made one
  (R22, R27). -/
  txq : Option TxqExchange
  /-- REG (R25). -/
  reg : Registry
  /-- HIST (R28), oldest event first; nothing reads it to compute a result. -/
  hist : List Event
  /-- The transmit-count source: the answers it will give, in the order of the queries (R27, R86). -/
  txAnswers : List Int
  /-- The transmit-count source: how many queries it has answered. The model's own field (log entry 7). -/
  txDraws : Nat
  /-- The OPEN parameters (R7), never written. -/
  params : Params
  /-- The host: the requests it will present after the one in progress, in the one total order of R47 and R51. The
  model's own field (log entry 1). -/
  pending : List Request
  deriving DecidableEq, Repr

/-- Right after reset (R32, R230): no transaction, no response, REG and HIST empty. The source is external and
unspecified (log entry 7), and the parameters are not reset (log entries 5 and 6). -/
def State.reset : State :=
  { request := none, response := none, txq := none, reg := [], hist := [], txAnswers := [], txDraws := 0,
    params := { cmd := defaultCmdCodes, lenMerge := Config.lenMerge }, pending := [] }

end Sys2Proof.Machine
end

