-- ==== Sys2Proof/Machine/Buffers.lean ====
section
/-! DEFINITION. The byte sequences IN and OUT of one transaction (20_memory.md R40 to R44), the modulo-256 checksum
(41_checksum.md R120) and the hex strings (20_memory.md R45, 42_encoder.md R142, R143). -/

namespace Sys2Proof.Machine

/-- The slice `s[i..j)` (R12), empty when `i ≥ j`. -/
def slice (s : Bytes) (i j : Nat) : Bytes := (s.take j).drop i

/-- The unsigned big-endian value of a byte sequence (R42). -/
def beValue (s : Bytes) : Nat := s.foldl (fun acc b => acc * 256 + b.toNat) 0

/-- The `n` low bytes of `v`, most significant first (R43). -/
def beBytes : Nat → Nat → Bytes
  | 0, _ => []
  | n + 1, v => beBytes n (v / 256) ++ [BitVec.ofNat 8 v]

/-- `MemRead(addr, n)` (R12, R42): the big-endian value of the slice `s[addr..addr+n)`. Every operation checks the
length first, so the slice is whole (R40). -/
def memRead (s : Bytes) (addr n : Nat) : Nat := beValue (slice s addr (addr + n))

/-- The one byte at `addr`, `MemRead(addr, 1)` (R42). -/
def memReadByte (s : Bytes) (addr : Nat) : Byte := BitVec.ofNat 8 (memRead s addr 1)

/-- `MemWrite(addr, n, v)` (R12, R43): `v`, big-endian, in the `n` bytes from `addr` on. -/
def memWrite (s : Bytes) (addr n v : Nat) : Bytes := s.take addr ++ beBytes n v ++ s.drop (addr + n)

/-- `s with [i] = b` (R12), `MemWrite(i, 1, b)`. -/
def withByte (s : Bytes) (i : Nat) (b : Byte) : Bytes := s.set i b

/-- `sum(s)`: the natural-number sum of the bytes, not reduced (R12). -/
def byteSum (s : Bytes) : Nat := (s.map BitVec.toNat).sum

/-- `ck(s) = (256 - (sum(s) mod 256)) mod 256` (R120). -/
def checksum (s : Bytes) : Byte := BitVec.ofNat 8 ((256 - byteSum s % 256) % 256)

/-- The checksum invariant: the sum of all bytes is 0 modulo 256 (R122). -/
def checksumHolds (s : Bytes) : Bool := decide (byteSum s % 256 = 0)

/-- The last byte of a non-empty sequence replaced by the checksum of the bytes before it (R141, R170). -/
def sealFrame (s : Bytes) : Bytes :=
  let n := s.length
  withByte s (n - 1) (checksum (slice s 0 (n - 1)))

/-- `hexchar(d)` (R13): '0'..'9', then 'A'..'F'. -/
def hexChar (d : Nibble) : Char :=
  if d.toNat < 10 then Char.ofNat (48 + d.toNat) else Char.ofNat (55 + d.toNat)

/-- `hexval` (R143): the digit's value, upper or lower case; `none` for every other character. -/
def hexVal (c : Char) : Option Nibble :=
  let n := c.toNat
  if 48 ≤ n ∧ n ≤ 57 then some (BitVec.ofNat 4 (n - 48))
  else if 65 ≤ n ∧ n ≤ 70 then some (BitVec.ofNat 4 (n - 55))
  else if 97 ≤ n ∧ n ≤ 102 then some (BitVec.ofNat 4 (n - 87))
  else none

/-- The two characters of a byte, the high nibble first (R45). -/
def hexByte (b : Byte) : Hex := [hexChar (b.extractLsb' 4 4), hexChar (b.extractLsb' 0 4)]

/-- `hex(s)` (R142): two characters a byte, no separators. -/
def hexOf (s : Bytes) : Hex := s.flatMap hexByte

/-- The bytes of a list of digit values taken two at a time, the high one first (R143). -/
def pairDigits : List Nibble → Bytes
  | hi :: lo :: rest => (hi ++ lo) :: pairDigits rest
  | _ => []

/-- `unhex(text)` (R143): odd length first, then the lowest index whose character is no hex digit. -/
def unhex (text : Hex) : Except BlockFault Bytes :=
  if text.length % 2 = 1 then .error (.malformedHex text.length)
  else
    match text.findIdx? (fun c => (hexVal c).isNone) with
    | some i => .error (.malformedHex i)
    | none => .ok (pairDigits (text.filterMap hexVal))

end Sys2Proof.Machine
end

