-- ==== Sys2Proof/Machine/CwBits.lean ====
section
/-! DEFINITION. The control word's bit logic, shared by the decoder, the encoder and the retransmit family
(30_encoding.md R62 to R67, 40_decoder.md R100). -/

namespace Sys2Proof.Machine

/-- `unpack(cw)` (R64, R100): bit 7 is reserved and read by no field (R63). -/
def unpack (cw : ControlWord) : CwFields :=
  { link := cw.getLsbD 15
    repeaterReq := cw.extractLsb' 13 2
    length := cw.extractLsb' 8 5
    ackReq := cw.extractLsb' 4 3
    txCount := cw.extractLsb' 2 2
    txSeq := cw.extractLsb' 0 2 }

/-- Field insertion (R65): a field of width `w` at bit `lo` takes the value `v`. `mergeLen .replace` and
`withLowByteTxCount` are instances of it (Laws/CwBits.lean). -/
def insertField (cw : ControlWord) (lo w v : Nat) : ControlWord :=
  (cw &&& ~~~(BitVec.ofNat 16 (2 ^ w - 1) <<< lo)) ||| (BitVec.ofNat 16 v <<< lo)

/-- The word BUILD_CW returns (R130, R132) for a link bit, a repeater request, an ack request and a transmit count that
have passed their range checks. -/
def packWord (link : Bool) (rep ack txCount : Int) : ControlWord :=
  (BitVec.zeroExtend 16 (BitVec.ofBool link) <<< 15) ||| (BitVec.ofInt 16 rep <<< 13) |||
    (BitVec.ofInt 16 ack <<< 4) ||| (BitVec.ofInt 16 (txCount - 1) <<< 2)

/-- `merge_len(c, total)` (R138): the frame length in bits 12..8, by the parameter LEN_MERGE. -/
def mergeLen (mode : LenMerge) (c : ControlWord) (total : Nat) : ControlWord :=
  match mode with
  | .replace => (c &&& 0xE0FF#16) ||| (BitVec.ofNat 16 total <<< 8)
  | .or => c ||| (BitVec.ofNat 16 total <<< 8)

/-- The tx_count field as a view of the control word's low byte, its bits 3..2 (R172). -/
def lowByteTxCount (b : Byte) : BitVec 2 := b.extractLsb' 2 2

/-- The low byte with its tx_count field cleared and rewritten (R65, R170). -/
def withLowByteTxCount (b : Byte) (v : Nat) : Byte := (b &&& 0xF3#8) ||| (BitVec.ofNat 8 v <<< 2)

end Sys2Proof.Machine
end

