-- ==== Sys2Proof/Machine/Operands.lean ====
section
/-! DEFINITION. The operand forms: the range checks of integer operands (R14, R82), the address check (R129), and the
conversion of a checked integer to its field. -/

namespace Sys2Proof.Machine

/-- `lo ≤ v ≤ hi`, as the range checks of the operations write it. -/
def inRange (lo hi v : Int) : Bool := decide (lo ≤ v) && decide (v ≤ hi)

/-- `check_address` (R129): exactly one of is_link and is_device is true. -/
def checkAddress (addr : Address) : Except BlockFault Unit :=
  if addr.isLink = addr.isDevice then .error (.badAddress addr.isLink addr.isDevice) else .ok ()

/-- An integer operand whose field admits `lo..hi`; any other value is a ContractViolation (R131, R201). -/
def checkContract (field : ContractField) (lo hi v : Int) : Except BlockFault Unit :=
  if inRange lo hi v then .ok () else .error (.contractViolation field v)

/-- `check_byte` (R129), with the byte it admits. -/
def checkByte (field : ContractField) (v : Int) : Except BlockFault Byte :=
  match checkContract field 0 255 v with
  | .error f => .error f
  | .ok () => .ok (BitVec.ofInt 8 v)

/-- A control word taken as an integer operand (R101, R135): 0..0xFFFF. -/
def checkWord (v : Int) : Except BlockFault ControlWord :=
  match checkContract .cw 0 0xFFFF v with
  | .error f => .error f
  | .ok () => .ok (BitVec.ofInt 16 v)

/-- A level or rate operand whose range is `lo..hi`; any other value is an ArgRange (R151, R158). -/
def checkArg (field : ArgField) (lo hi v : Int) : Except BlockFault Unit :=
  if inRange lo hi v then .ok () else .error (.argRange field (some v))

/-- The channel operand where the channel byte is produced (R151, R152): present and 0..254. The byte is 1-based
(R69). -/
def channelByte (channel : Option Nat) : Except BlockFault Byte :=
  match channel with
  | none => .error (.argRange .channel none)
  | some ch => if ch > 254 then .error (.argRange .channel (some ch)) else .ok (BitVec.ofNat 8 (ch + 1))

end Sys2Proof.Machine
end

