-- ==== Sys2Proof/Machine/Ops.lean ====
section
/-! DEFINITION. The named operations on the state: answering a request, the registry, the event history, the
transmit-count query, the request port and reset. -/

namespace Sys2Proof.Machine

/-- What a step ends in, for this machine. -/
abbrev StepResult := Host.Outcome State Fault Refusal

/-- The response port takes a response (R200: exactly one a request). -/
def State.respond (s : State) (r : Response) : State := { s with response := some r }

/-- `raise Fault(code, info)` (R13, R200, R203, R206): the one way an operation takes a fault. The response port holds
it; nothing is saved, no mode changes, no control is transferred, and the next request is served as if it had not
happened. -/
def raiseFault (f : BlockFault) (s : State) : StepResult := .next (s.respond (.fault f))

/-- `result <- v` for an operation that invokes no handler (R13, R22). -/
def complete (r : Result) (s : State) : StepResult := .next (s.respond (.ok r none))

/-- The answer to a request from what its checks and its computation gave: the result, or the fault of the first check
that failed (R200, R204). -/
def answer (s : State) : Except BlockFault Result → StepResult
  | .ok r => complete r s
  | .error f => raiseFault f s

/-- An event is appended to HIST (R28). -/
def State.record (s : State) (e : Event) : State := { s with hist := s.hist ++ [e] }

/-- `REG(code)` in a registry: the listed entry, or the empty list (R25, R32). -/
def Registry.get : Registry → Byte → List Handler
  | [], _ => []
  | (k, hs) :: rest, c => if k = c then hs else Registry.get rest c

/-- `REG(code) <- hs` for a non-empty `hs`, keeping the codes strictly rising. -/
def Registry.put : Registry → Byte → List Handler → Registry
  | [], c, hs => [(c, hs)]
  | (k, ks) :: rest, c, hs =>
    if c = k then (c, hs) :: rest
    else if c.toNat < k.toNat then (c, hs) :: (k, ks) :: rest
    else (k, ks) :: Registry.put rest c hs

/-- The registry's canonical form and the invariant of R25: codes strictly rising, no listed entry empty, no entry with
a repetition. -/
def Registry.wf (r : Registry) : Bool :=
  decide (r.Pairwise fun a b => a.1.toNat < b.1.toNat) && r.all fun e => !e.2.isEmpty && decide e.2.Nodup

/-- `REG(code)` (R25). -/
def State.handlers (s : State) (code : Byte) : List Handler := Registry.get s.reg code

/-- `REG(code) <- REG(code) ++ [h]` (R106): append only (R30). -/
def State.appendHandler (s : State) (code : Byte) (h : Handler) : State :=
  { s with reg := Registry.put s.reg code (s.handlers code ++ [h]) }

/-- The answer the transmit-count source gives to the next query: the next one listed, or, where none is listed, a free
value (R27, R237; log entry 7). -/
def State.nextTxAnswer (s : State) (networkId targetId : Byte) : Int :=
  match s.txAnswers with
  | v :: _ => v
  | [] => Config.txAnswer s.txDraws networkId targetId

/-- `Query(net, tgt)` (R13, R27): one exchange on TXQ_REQ and TXQ_ANS; the source has answered once more, and HIST
records the query (R28). The answer is `State.nextTxAnswer`. -/
def State.query (s : State) (networkId targetId : Byte) : State :=
  let v := s.nextTxAnswer networkId targetId
  { s with
    txq := some { networkId := networkId, targetId := targetId, answer := v }
    hist := s.hist ++ [.txQuery networkId targetId v]
    txAnswers := s.txAnswers.tail
    txDraws := s.txDraws + 1 }

/-- The block takes the request on its port (R9): the port is free again, and the response and TXQ ports no longer show
the transaction before (DESIGN CHOICE, unsafe; log entry 2). -/
def State.takeRequest (s : State) : State := { s with request := none, response := none, txq := none }

/-- The host presents the next request of its list on the free request port (R9, R21). -/
def State.present (s : State) (r : Request) (rest : List Request) : State :=
  { s with request := some r, pending := rest }

/-- What happens while no transaction is in progress: the host presents its next request; where it has none, the block
stays idle (R230) and nothing changes. -/
def hostTurn (s : State) : StepResult :=
  match s.pending with
  | [] => .next s
  | r :: rest => .next (s.present r rest)

/-- A reset of the block (R230, R231), at any time: a transaction in progress is aborted with no response, REG and HIST
are emptied. What is not the block's stays: the source, the parameters, and the host's list. -/
def State.blockReset (s : State) : State :=
  { s with request := none, response := none, txq := none, reg := [], hist := [] }

/-- A reset of the block that comes after the transaction in progress has made its query (R231): no response and no
other effect, but the query stays made. The source has answered, and the query's event is the one entry of HIST after
the reset (93_implementation_defined.md I20; DESIGN CHOICE, unsafe; log entry 10). -/
def State.resetAfterQuery (s : State) (networkId targetId : Byte) : State :=
  let e := Event.txQuery networkId targetId (s.nextTxAnswer networkId targetId)
  { (s.query networkId targetId).blockReset with hist := [e] }

end Sys2Proof.Machine
end

