-- ==== Sys2Proof/Machine/ChecksumUnit.lean ====
section
/-! DEFINITION. The checksum family: CKSUM_GEN, CKSUM_VERIFY (41_checksum.md). -/

namespace Sys2Proof.Machine

/-- CKSUM_GEN (R121). -/
def execCksumGen (frame : Bytes) (s : State) : StepResult := complete (.byte (checksum frame)) s

/-- CKSUM_VERIFY's result (R122): a mismatch is an answer, not a fault. -/
def verifyFrame (frame : Bytes) : Except BlockFault Bool :=
  if frame.length = 0 then .error (.malformedFrame 0) else .ok (checksumHolds frame)

/-- CKSUM_VERIFY (R122). -/
def execCksumVerify (frame : Bytes) (s : State) : StepResult := answer s ((verifyFrame frame).map .bool)

end Sys2Proof.Machine
end

