-- ==== Sys2Proof/Machine/Encoder.lean ====
section
/-! DEFINITION. The encoder family: BUILD_CW, ENCODE, HEX_SERIALIZE, HEX_PARSE (42_encoder.md). An operation that may
query the transmit-count source gives the state with its result, since a query already made stays made when a later
check faults (60_exceptions.md R203). -/

namespace Sys2Proof.Machine

/-- The checks BUILD_CW makes before its query, in the order of R204. -/
def buildCwChecks (addr : Address) (rep ack : Int) : Except BlockFault Unit :=
  match checkAddress addr with
  | .error f => .error f
  | .ok () =>
    match checkContract .repeaterReq 0 3 rep with
    | .error f => .error f
    | .ok () => checkContract .ackReq 0 7 ack

/-- BUILD_CW's computation (R130): the checks, one query, the check of its answer, the word. -/
def buildWord (addr : Address) (rep ack : Int) (s : State) : State × Except BlockFault ControlWord :=
  match buildCwChecks addr rep ack with
  | .error f => (s, .error f)
  | .ok () =>
    let v := s.nextTxAnswer addr.networkId addr.targetId
    let t := s.query addr.networkId addr.targetId
    match checkContract .txCount 1 4 v with
    | .error f => (t, .error f)
    | .ok () => (t, .ok (packWord addr.isLink rep ack v))

/-- BUILD_CW (R130). -/
def execBuildCw (addr : Address) (rep ack : Int) (s : State) : StepResult :=
  let out := buildWord addr rep ack s
  answer out.1 (out.2.map .word)

/-- The operand checks of ENCODE, in the order of R204: the address, src, cmd. -/
def encodeChecks (addr : Address) (src cmd : Int) : Except BlockFault (Byte × Byte) :=
  match checkAddress addr with
  | .error f => .error f
  | .ok () =>
    match checkByte .src src with
    | .error f => .error f
    | .ok srcByte =>
      match checkByte .cmd cmd with
      | .error f => .error f
      | .ok cmdByte => .ok (srcByte, cmdByte)

/-- ENCODE's control word (R135, R136): `auto` is BUILD_CW with rep = 0 and ack = 0. -/
def encodeWord (cw : CwOperand) (addr : Address) (s : State) : State × Except BlockFault ControlWord :=
  match cw with
  | .auto => buildWord addr 0 0 s
  | .word v => (s, checkWord v)

/-- The bytes of a frame before its checksum is set (R60, R135, R140): the control word big-endian, network id, target
id, source id, command code, the payload unchanged, and one zero placeholder. -/
def assembleFrame (c : ControlWord) (addr : Address) (src cmd : Byte) (payload : Bytes) : Bytes :=
  memWrite ([0, 0, addr.networkId, addr.targetId, src, cmd] ++ payload ++ [0x00]) 0 2 c.toNat

/-- ENCODE's steps from the total length on (R135, R137, R138, R139, R141, R142). -/
def finishFrame (mode : LenMerge) (c : ControlWord) (addr : Address) (src cmd : Byte) (payload : Bytes) :
    Except BlockFault Hex :=
  let total := lenOffset + payload.length
  if total > maxFrameLen then .error (.frameTooLong total)
  else .ok (hexOf (sealFrame (assembleFrame (mergeLen mode c total) addr src cmd payload)))

/-- ENCODE's computation (R135). -/
def encodeFrame (cw : CwOperand) (addr : Address) (src cmd : Int) (payload : Bytes) (s : State) :
    State × Except BlockFault Hex :=
  match encodeChecks addr src cmd with
  | .error f => (s, .error f)
  | .ok (srcByte, cmdByte) =>
    match encodeWord cw addr s with
    | (t, .error f) => (t, .error f)
    | (t, .ok c) => (t, finishFrame s.params.lenMerge c addr srcByte cmdByte payload)

/-- The answer of ENCODE and of the command-specific encoders, which are its expansions (R87, R150). -/
def answerFrame (out : State × Except BlockFault Hex) : StepResult := answer out.1 (out.2.map .hex)

/-- ENCODE (R135). -/
def execEncode (cw : CwOperand) (addr : Address) (src cmd : Int) (payload : Bytes) (s : State) : StepResult :=
  answerFrame (encodeFrame cw addr src cmd payload s)

/-- HEX_SERIALIZE (R142). -/
def execHexSerialize (frame : Bytes) (s : State) : StepResult := complete (.hex (hexOf frame)) s

/-- HEX_PARSE (R143). -/
def execHexParse (text : Hex) (s : State) : StepResult := answer s ((unhex text).map .bytes)

end Sys2Proof.Machine
end

