-- ==== Sys2Proof/Machine/Commands.lean ====
section
/-! DEFINITION. The command-specific encoders: LEVEL_PAYLOAD and the ENC_* operations (43_commands.md). -/

namespace Sys2Proof.Machine

/-- The range checks of level and rate, after the address check (R151, R204). -/
def levelChecks (addr : Address) (level rate : Int) : Except BlockFault Unit :=
  match checkAddress addr with
  | .error f => .error f
  | .ok () =>
    match checkArg .level 0 255 level with
    | .error f => .error f
    | .ok () => checkArg .rate (-1) 255 rate

/-- The level/rate payload (R69, R152). The channel byte is produced exactly for a device with multi_channel (R160). -/
def levelBytes (addr : Address) (level rate : Int) : Except BlockFault Bytes :=
  match levelChecks addr level rate with
  | .error f => .error f
  | .ok () =>
    let levelByte : Byte := BitVec.ofInt 8 level
    if addr.isDevice && addr.multiChannel then
      match channelByte addr.channel with
      | .error f => .error f
      | .ok ch => .ok [levelByte, if rate = rateDefaultSentinel then rateDefaultByte else BitVec.ofInt 8 rate, ch]
    else if rate ≠ rateDefaultSentinel then .ok [levelByte, BitVec.ofInt 8 rate]
    else .ok [levelByte]

/-- LEVEL_PAYLOAD (R152). -/
def execLevelPayload (addr : Address) (level rate : Int) (s : State) : StepResult :=
  answer s ((levelBytes addr level rate).map .bytes)

/-- A command-specific encoder's expansion (R150): ENCODE with control word `auto` and the command's byte, once its
payload is computed; a fault of the payload comes first and makes no query (R155, R158, R204). -/
def encodeCommand (name : Command) (addr : Address) (src : Int) (payload : Except BlockFault Bytes) (s : State) :
    State × Except BlockFault Hex :=
  match payload with
  | .error f => (s, .error f)
  | .ok p => encodeFrame .auto addr src (cmdCode s.params.cmd name).toNat p s

/-- ENC_BLINK's payload (R158): one byte, the rate, 0..255, after the address check. -/
def blinkBytes (addr : Address) (rate : Int) : Except BlockFault Bytes :=
  match checkAddress addr with
  | .error f => .error f
  | .ok () =>
    match checkArg .rate 0 255 rate with
    | .error f => .error f
    | .ok () => .ok [BitVec.ofInt 8 rate]

/-- ENC_ACTIVATE (R153). -/
def execEncActivate (addr : Address) (src : Int) (s : State) : StepResult :=
  answerFrame (encodeCommand .activate addr src (.ok []) s)

/-- ENC_DEACTIVATE (R154). -/
def execEncDeactivate (addr : Address) (src : Int) (s : State) : StepResult :=
  answerFrame (encodeCommand .deactivate addr src (.ok []) s)

/-- ENC_GOTO (R155). -/
def execEncGoto (addr : Address) (src level rate : Int) (s : State) : StepResult :=
  answerFrame (encodeCommand .goto addr src (levelBytes addr level rate) s)

/-- ENC_FADE_START (R156). -/
def execEncFadeStart (addr : Address) (src level rate : Int) (s : State) : StepResult :=
  answerFrame (encodeCommand .fadeStart addr src (levelBytes addr level rate) s)

/-- ENC_FADE_STOP (R157). -/
def execEncFadeStop (addr : Address) (src : Int) (s : State) : StepResult :=
  answerFrame (encodeCommand .fadeStop addr src (.ok []) s)

/-- ENC_BLINK (R158). -/
def execEncBlink (addr : Address) (src rate : Int) (s : State) : StepResult :=
  answerFrame (encodeCommand .blink addr src (blinkBytes addr rate) s)

/-- ENC_REPORT_STATE (R159). -/
def execEncReportState (addr : Address) (src : Int) (s : State) : StepResult :=
  answerFrame (encodeCommand .reportState addr src (.ok []) s)

end Sys2Proof.Machine
end

