-- ==== Sys2Proof/Machine/Decoder.lean ====
section
/-! DEFINITION. The decoder family: UNPACK_CW, DECODE, REGISTER, DISPATCH (40_decoder.md). -/

namespace Sys2Proof.Machine

/-- UNPACK_CW's result (R101). -/
def unpackOperand (cw : Int) : Except BlockFault CwFields :=
  match checkWord cw with
  | .error f => .error f
  | .ok c => .ok (unpack c)

/-- UNPACK_CW (R101). -/
def execUnpackCw (cw : Int) (s : State) : StepResult := answer s ((unpackOperand cw).map .fields)

/-- DECODE's result (R102): no validation beyond the 6-byte minimum (R103), every message code accepted (R104), a
checksum byte that was not stripped kept in the data (R105). -/
def parseFrame (frame : Bytes) : Except BlockFault DecodedMessage :=
  if frame.length < hdrLen then .error (.malformedFrame frame.length)
  else
    let f := unpack (BitVec.ofNat 16 (memRead frame 0 2))
    .ok
      { link := f.link, repeaterReq := f.repeaterReq, length := f.length, ackReq := f.ackReq,
        txCount := f.txCount, txSeq := f.txSeq,
        networkId := memReadByte frame 2, destId := memReadByte frame 3, srcId := memReadByte frame 4,
        msgId := memReadByte frame 5, data := slice frame 6 frame.length }

/-- DECODE (R102). -/
def execDecode (frame : Bytes) (s : State) : StepResult := answer s ((parseFrame frame).map .message)

/-- REGISTER (R106): a no-op on REG where the handler is already registered for the code, else an append; both are
recorded. -/
def execRegister (code : Byte) (h : Handler) (s : State) : StepResult :=
  if h ∈ s.handlers code then complete .unit (s.record (.registered code h false))
  else complete .unit ((s.appendHandler code h).record (.registered code h true))

/-- DISPATCH (R108): the handlers of the message's code in registration order, and the summary triple. -/
def execDispatch (msg : DecodedMessage) (s : State) : StepResult :=
  let hs := s.handlers msg.msgId
  .next ((s.record (.dispatched msg.msgId hs)).respond
    (.ok (.summary msg.networkId msg.srcId (msg.txCount.toNat + 1)) (some hs)))

end Sys2Proof.Machine
end

