-- ==== Sys2Proof/Machine/Retransmit.lean ====
section
/-! DEFINITION. The retransmit family: INC_TX (44_retransmit.md). -/

namespace Sys2Proof.Machine

/-- The frame with its declared transmit count `t + 1` written and its checksum recomputed (R170). -/
def bumpFrame (b : Bytes) (low : Byte) : Bytes :=
  let b1 := withByte b 1 (withLowByteTxCount low ((lowByteTxCount low).toNat + 1))
  sealFrame (withByte b1 (b1.length - 1) 0x00)

/-- INC_TX's result (R170): the parse, the 7-byte minimum (R171), the saturated input returned verbatim (R173), else
the incremented frame (R174). The field is read at byte index 1 (R172). -/
def incrementText (text : Hex) : Except BlockFault Hex :=
  match unhex text with
  | .error f => .error f
  | .ok b =>
    if b.length < lenOffset then .error (.malformedFrame b.length)
    else
      let low := memReadByte b 1
      if (lowByteTxCount low).toNat = txCountMaxField then .ok text else .ok (hexOf (bumpFrame b low))

/-- INC_TX (R170). -/
def execIncTx (text : Hex) (s : State) : StepResult := answer s ((incrementText text).map .hex)

end Sys2Proof.Machine
end

