-- ==== Sys2Proof/Machine/Dispatch.lean ====
section
/-! DEFINITION. One arm per operation of 30_encoding.md R80. -/

namespace Sys2Proof.Machine

def exec (i : Instr) (s : State) : Host.Outcome State Fault Refusal :=
  match i with
  | .unpackCw cw => Sys2Proof.Machine.execUnpackCw cw s
  | .decode frame => Sys2Proof.Machine.execDecode frame s
  | .register code h => Sys2Proof.Machine.execRegister code h s
  | .dispatch msg => Sys2Proof.Machine.execDispatch msg s
  | .cksumGen frame => Sys2Proof.Machine.execCksumGen frame s
  | .cksumVerify frame => Sys2Proof.Machine.execCksumVerify frame s
  | .buildCw addr rep ack => Sys2Proof.Machine.execBuildCw addr rep ack s
  | .encode cw addr src cmd payload => Sys2Proof.Machine.execEncode cw addr src cmd payload s
  | .hexSerialize frame => Sys2Proof.Machine.execHexSerialize frame s
  | .hexParse text => Sys2Proof.Machine.execHexParse text s
  | .levelPayload addr level rate => Sys2Proof.Machine.execLevelPayload addr level rate s
  | .encActivate addr src => Sys2Proof.Machine.execEncActivate addr src s
  | .encDeactivate addr src => Sys2Proof.Machine.execEncDeactivate addr src s
  | .encGoto addr src level rate => Sys2Proof.Machine.execEncGoto addr src level rate s
  | .encFadeStart addr src level rate => Sys2Proof.Machine.execEncFadeStart addr src level rate s
  | .encFadeStop addr src => Sys2Proof.Machine.execEncFadeStop addr src s
  | .encBlink addr src rate => Sys2Proof.Machine.execEncBlink addr src rate s
  | .encReportState addr src => Sys2Proof.Machine.execEncReportState addr src s
  | .incTx text => Sys2Proof.Machine.execIncTx text s

end Sys2Proof.Machine
end

