-- ==== Sys2Proof/Machine/Serve.lean ====
section
/-! DEFINITION. Serving one request: decoding it and running its operation, or faulting IllegalOp (30_encoding.md R80,
R81). -/

namespace Sys2Proof.Machine

/-- A request taken from the port is decoded and its operation runs; an OP that selects none faults IllegalOp before
any operand is read, with no other effect (R81, R204). -/
def serveRequest (r : Request) (s : State) : StepResult :=
  match decodeRequest r with
  | .ok i => exec i s
  | .error (.illegalOp op) => raiseFault (.illegalOp op) s

/-- The request whose OP port carries the low `nbits` bits of `w` and whose operands are zeros. -/
def fetchedRequest (nbits w : Nat) : Request := tableRequest (w % 2 ^ nbits)

end Sys2Proof.Machine
end

