-- ==== Sys2Proof/Machine/Step.lean ====
section
/-! DEFINITION. One step: where a request is on the port, the block serves it whole (00_scope.md R9, 20_memory.md R47);
where none is, it is the host's turn. -/

namespace Sys2Proof.Machine

/-- One step of the machine. -/
def step (s : State) : Host.Outcome State Fault Refusal :=
  match s.request with
  | none => hostTurn s
  | some r => serveRequest r s.takeRequest

/-- `s` with the request whose OP bits are `w`, operands zero, on the request port, so that the next step serves it
(log entry 1); a request that already stands there is replaced (log entry 23). -/
def State.withFetchWord (s : State) (nbits w : Nat) : State :=
  { s with request := some (fetchedRequest nbits w) }

end Sys2Proof.Machine
end

