-- ==== Sys2Proof/Machine/Flags.lean ====
section
/-! DEFINITION. The block has no flags, condition codes or predicates (10_state.md R23). The only status a transaction
reports is STATUS with FCODE and FINFO, so this file holds those views of the response port (R22, R201, R202). -/

namespace Sys2Proof.Machine

/-- The STATUS port's two values (R22). -/
inductive Status where
  | ok
  | fault
  deriving DecidableEq, Repr

/-- FCODE of a fault (R201). -/
def fcode : BlockFault → Byte
  | .malformedFrame _ => 0x01
  | .frameTooLong _ => 0x02
  | .contractViolation _ _ => 0x03
  | .badAddress _ _ => 0x04
  | .argRange _ _ => 0x05
  | .malformedHex _ => 0x06
  | .illegalOp _ => 0x07

/-- The STATUS port; no value before the first response (R32). -/
def State.status (s : State) : Option Status :=
  match s.response with
  | none => none
  | some (.ok _ _) => some .ok
  | some (.fault _) => some .fault

/-- The RESULT port, valid only when STATUS = Ok (R22). -/
def State.result (s : State) : Option Result :=
  match s.response with
  | some (.ok r _) => some r
  | _ => none

/-- The INVOKE port, DISPATCH only (R22, R108). -/
def State.invoke (s : State) : Option (List Handler) :=
  match s.response with
  | some (.ok _ hs) => hs
  | _ => none

/-- The fault of the response: its name and its FINFO record, valid only when STATUS = Fault (R22, R202). -/
def State.finfo (s : State) : Option BlockFault :=
  match s.response with
  | some (.fault f) => some f
  | _ => none

/-- The FCODE port, valid only when STATUS = Fault (R22, R201). -/
def State.fcodePort (s : State) : Option Byte := s.finfo.map fcode

/-- The name FINFO gives a ContractViolation's operand (R202). -/
def contractFieldName : ContractField → String
  | .cw => "cw"
  | .repeaterReq => "repeater_req"
  | .ackReq => "ack_req"
  | .txCount => "tx_count"
  | .src => "src"
  | .cmd => "cmd"

/-- The name FINFO gives an ArgRange's operand (R202). -/
def argFieldName : ArgField → String
  | .level => "level"
  | .rate => "rate"
  | .channel => "channel"

end Sys2Proof.Machine
end

