-- ==== Sys2Proof/Machine/HostSide.lean ====
section
/-! DEFINITION. The host's side of the interface (60_exceptions.md R220 to R224), as functions: issuing a program of
requests, invoking the handlers DISPATCH returned, stripping a checksum. No step of the block calls one of these. -/

namespace Sys2Proof.Machine

/-- One request presented on the port and served (R9): the response and the state after. The port is meant to be free:
the spec gives it no handshake, and a request that already stands on it is replaced and gets no response (DESIGN CHOICE,
unsafe; log entry 23). -/
def issue (r : Request) (s : State) : Option Response × State :=
  match step { s with request := some r } with
  | .next t => (t.response, t)
  | .fault _ | .refused _ => (none, s)

/-- A program (R86): requests issued in order by one host that stops at the first faulting one. What comes back is the
responses in order, the last of them the fault where one stopped it, and the state after. A request that stands on the
port before the first is replaced by it (log entry 23). -/
def runProgram : List Request → State → List Response × State
  | [], s => ([], s)
  | r :: rest, s =>
    match issue r s with
    | (some (.ok v hs), t) => let out := runProgram rest t; (.ok v hs :: out.1, out.2)
    | (some (.fault f), t) => ([.fault f], t)
    | (none, t) => ([], t)

/-- What the host's invocation of an INVOKE list did (R110): the calls made, each handler with the one message it
receives (R109), and the handler whose failure went to the caller, if one did. -/
structure Invocation where
  calls   : List (Handler × DecodedMessage)
  failure : Option Handler
  deriving DecidableEq, Repr

/-- The host invokes the handlers one at a time in list order; the handlers after one that raises are not invoked
(R109, R110). Which handlers raise is the host's own matter. -/
def invokeHandlers (raises : Handler → Bool) (msg : DecodedMessage) : List Handler → Invocation
  | [] => { calls := [], failure := none }
  | h :: rest =>
    if raises h then { calls := [(h, msg)], failure := some h }
    else
      let out := invokeHandlers raises msg rest
      { calls := (h, msg) :: out.calls, failure := out.failure }

/-- A caller that strips the checksum byte takes `frame[0..len(frame)-1)` itself (R122, R221 (a)). -/
def stripChecksum (frame : Bytes) : Bytes := slice frame 0 (frame.length - 1)

end Sys2Proof.Machine
end

