-- ==== Sys2Proof/WellFormed.lean ====
section
/-! DEFINITION. Which operations a host can form (30_encoding.md R82: operands typed byte, Bytes, bool, Hex or Handler
are well-typed by construction). The types of Syntax.lean carry all of this but one point: a Hex string is a list of
ASCII characters (00_scope.md R13). Ranges of integer operands are no matter of well-formedness: the operation checks
them and faults (R82). -/

namespace Sys2Proof

/-- A list of characters is a Hex string when each is ASCII (R13, R40 (c)). -/
def Hex.ascii (text : Hex) : Bool := text.all fun c => decide (c.toNat < 128)

/-- The operation is one a host can form. -/
def Instr.wellFormed : Instr → Bool
  | .hexParse text | .incTx text => Hex.ascii text
  | .unpackCw _ | .decode _ | .register _ _ | .dispatch _ | .cksumGen _ | .cksumVerify _ | .buildCw _ _ _
  | .encode _ _ _ _ _ | .hexSerialize _ | .levelPayload _ _ _ | .encActivate _ _ | .encDeactivate _ _
  | .encGoto _ _ _ _ | .encFadeStart _ _ _ _ | .encFadeStop _ _ | .encBlink _ _ _ | .encReportState _ _ => true

end Sys2Proof
end

