-- ==== Sys2Proof/Safety.lean ====
section
/-! DEFINITION. What claims are stated in: the invariant of every state the block can be in, the end of a run, and the
groups of operations that the frames name. -/

namespace Sys2Proof.Machine

/-- The handlers a history registered for a code, in registration order (R28, R107). -/
def addedFor (code : Byte) : List Event → List Handler
  | [] => []
  | .registered c h added :: rest =>
    if c = code ∧ added = true then h :: addedFor code rest else addedFor code rest
  | .txQuery _ _ _ :: rest => addedFor code rest
  | .dispatched _ _ :: rest => addedFor code rest

/-- How many transmit-count queries a history records (R28). -/
def queryCount : List Event → Nat
  | [] => 0
  | .txQuery _ _ _ :: rest => queryCount rest + 1
  | .registered _ _ _ :: rest => queryCount rest
  | .dispatched _ _ :: rest => queryCount rest

/-- An event is what the operation that recorded it would record after the events `before` (R51, R106, R108): a
DISPATCH returned exactly the handlers registered before it, in registration order, and a REGISTER added its handler
exactly when it was not registered before. -/
def Event.follows (before : List Event) : Event → Prop
  | .registered code h added => (added = true ↔ h ∉ addedFor code before)
  | .dispatched code hs => hs = addedFor code before
  | .txQuery _ _ _ => True

/-- Every event of a history follows from those before it. -/
def historyConsistent (hist : List Event) : Prop :=
  ∀ before e after, hist = before ++ e :: after → e.follows before

/-- The invariant of the block: REG is in canonical form with no repetition (R25), it holds exactly what HIST says was
registered, in registration order (R106, R107), every event of HIST follows from those before it (R51), HIST records no
more queries than the source answered (R27), and CMD_CODE is injective (R72). -/
structure State.Inv (s : State) : Prop where
  registryWf   : Registry.wf s.reg = true
  registryHist : ∀ code, s.handlers code = addedFor code s.hist
  history      : historyConsistent s.hist
  queries      : queryCount s.hist ≤ s.txDraws
  codes        : cmdCodesInjective s.params.cmd = true

/-- The bytes of a frame as R60 lays them out, for a control-word value, an Address, a source id, a command code and a
payload: the control word big-endian, network id, target id, source id, command code, the payload, and the byte that
makes the sum of all a multiple of 256 (R120). Claims about the encoders are stated in it. -/
def wireFrame (word : Nat) (addr : Address) (src cmd : Nat) (payload : Bytes) : Bytes :=
  let body : Bytes := [BitVec.ofNat 8 (word / 256), BitVec.ofNat 8 word, addr.networkId, addr.targetId,
    BitVec.ofNat 8 src, BitVec.ofNat 8 cmd] ++ payload
  body ++ [BitVec.ofNat 8 (256 - (body.map BitVec.toNat).sum % 256)]

/-- The control word of an `auto` frame with a payload of `len` bytes, for a transmit-count answer `v` (R66, R67, R132,
R150): link in bit 15, the total length in bits 12..8, `v - 1` in bits 3..2, the rest 0. -/
def autoWord (addr : Address) (v len : Nat) : Nat :=
  (if addr.isLink then 2 ^ 15 else 0) + (7 + len) * 2 ^ 8 + (v - 1) * 2 ^ 2

/-- A control-word value with a frame length put into bits 12..8 (R138), by the parameter LEN_MERGE. Claims about an
explicit control word are stated in it. -/
def mergedWord (mode : LenMerge) (cw total : Nat) : Nat :=
  match mode with
  | .replace => cw - cw / 2 ^ 8 % 2 ^ 5 * 2 ^ 8 + total * 2 ^ 8
  | .or => cw ||| total * 2 ^ 8

/-- The length field DECODE reads from a frame of `total` bytes that ENCODE made (R145): the total, or, under
LEN_MERGE = OR, the explicit word's length field ORed with it. -/
def decodedLength (mode : LenMerge) (cw : CwOperand) (total : Nat) : Nat :=
  match cw, mode with
  | .word v, .or => (v / 2 ^ 8 % 2 ^ 5).toNat ||| total
  | .word _, .replace => total
  | .auto, _ => total

/-- The bytes of the level/rate payload by R69's table: a device with several channels, a rate given, no rate given. -/
def levelForm (addr : Address) (level : Nat) (rate : Int) (p : Bytes) : Prop :=
  (addr.isDevice = true ∧ addr.multiChannel = true ∧ ∃ ch, ch ≤ 254 ∧ addr.channel = some ch ∧
    p = [BitVec.ofNat 8 level, if rate = -1 then 0xFF else BitVec.ofInt 8 rate, BitVec.ofNat 8 (ch + 1)]) ∨
  (¬(addr.isDevice = true ∧ addr.multiChannel = true) ∧ rate ≠ -1 ∧
    p = [BitVec.ofNat 8 level, BitVec.ofInt 8 rate]) ∨
  (¬(addr.isDevice = true ∧ addr.multiChannel = true) ∧ rate = -1 ∧ p = [BitVec.ofNat 8 level])

/-- The state in which the source has answered one query more, for an Address's ids, with `v` (R27, R28). -/
def State.afterQuery (s : State) (addr : Address) (v : Int) : State :=
  { s with
    txq := some { networkId := addr.networkId, targetId := addr.targetId, answer := v }
    hist := s.hist ++ [.txQuery addr.networkId addr.targetId v]
    txAnswers := s.txAnswers.tail
    txDraws := s.txDraws + 1 }

/-- The end of a run (R224): every request the host issued has its response and no transaction is in progress. A request
that a reset has aborted gets no response (R231), and is no longer waited for here: the run ends without it (DESIGN
CHOICE, unsafe; log entry 24). -/
def State.endOfRun (s : State) : Bool := s.request.isNone && s.pending.isEmpty

end Sys2Proof.Machine

namespace Sys2Proof

open Machine

/-- The operations that are pure functions of their operands (R49): none of REG, HIST and the source is touched. -/
def Instr.isPure : Instr → Bool
  | .unpackCw _ | .decode _ | .cksumGen _ | .cksumVerify _ | .hexSerialize _ | .hexParse _
  | .levelPayload _ _ _ | .incTx _ => true
  | .encode (.word _) _ _ _ _ => true
  | .encode .auto _ _ _ _ => false
  | .register _ _ | .dispatch _ | .buildCw _ _ _ | .encActivate _ _ | .encDeactivate _ _ | .encGoto _ _ _ _
  | .encFadeStart _ _ _ _ | .encFadeStop _ _ | .encBlink _ _ _ | .encReportState _ _ => false

/-- The operations that query the transmit-count source (R27, R150), with the ids they ask it for. -/
def Instr.queries : Instr → Option Address
  | .buildCw addr _ _ | .encode .auto addr _ _ _ | .encActivate addr _ | .encDeactivate addr _ | .encGoto addr _ _ _
  | .encFadeStart addr _ _ _ | .encFadeStop addr _ | .encBlink addr _ _ | .encReportState addr _ => some addr
  | .unpackCw _ | .decode _ | .register _ _ | .dispatch _ | .cksumGen _ | .cksumVerify _ | .encode (.word _) _ _ _ _
  | .hexSerialize _ | .hexParse _ | .levelPayload _ _ _ | .incTx _ => none

/-- The result type R31 gives each operation. -/
def Instr.resultTyped : Instr → Result → Prop
  | .unpackCw _, r => ∃ f, r = .fields f
  | .decode _, r => ∃ m, r = .message m
  | .register _ _, r => r = .unit
  | .dispatch _, r => ∃ net src n, r = .summary net src n ∧ 1 ≤ n ∧ n ≤ 4
  | .cksumGen _, r => ∃ b, r = .byte b
  | .cksumVerify _, r => ∃ b, r = .bool b
  | .buildCw _ _ _, r => ∃ w, r = .word w
  | .hexParse _, r => ∃ bs, r = .bytes bs
  | .levelPayload _ _ _, r => ∃ bs : Bytes, r = .bytes bs ∧ 1 ≤ bs.length ∧ bs.length ≤ 3
  | .encode _ _ _ _ _, r | .hexSerialize _, r | .encActivate _ _, r | .encDeactivate _ _, r | .encGoto _ _ _ _, r
  | .encFadeStart _ _ _ _, r | .encFadeStop _ _, r | .encBlink _ _ _, r | .encReportState _ _, r
  | .incTx _, r => ∃ t, r = .hex t

/-- The faults R201 lets each operation raise, ContractViolation and ArgRange with the operands R202 and R204 name. -/
def Instr.mayFault : Instr → BlockFault → Prop
  | .unpackCw _, f => ∃ v, f = .contractViolation .cw v
  | .decode _, f => ∃ n, f = .malformedFrame n ∧ n < 6
  | .register _ _, _ | .dispatch _, _ | .cksumGen _, _ | .hexSerialize _, _ => False
  | .cksumVerify _, f => f = .malformedFrame 0
  | .buildCw _ _ _, f =>
    (∃ b, f = .badAddress b b) ∨ ∃ field v, f = .contractViolation field v ∧
      (field = .repeaterReq ∨ field = .ackReq ∨ field = .txCount)
  | .encode _ _ _ _ _, f =>
    (∃ b, f = .badAddress b b) ∨ (∃ n, f = .frameTooLong n ∧ 31 < n) ∨ ∃ field v, f = .contractViolation field v ∧
      (field = .src ∨ field = .cmd ∨ field = .cw ∨ field = .txCount)
  | .hexParse _, f => ∃ i, f = .malformedHex i
  | .levelPayload _ _ _, f => (∃ b, f = .badAddress b b) ∨ ∃ field v, f = .argRange field v
  | .encActivate _ _, f | .encDeactivate _ _, f | .encFadeStop _ _, f | .encReportState _ _, f =>
    (∃ b, f = .badAddress b b) ∨ ∃ field v, f = .contractViolation field v ∧ (field = .src ∨ field = .txCount)
  | .encGoto _ _ _ _, f | .encFadeStart _ _ _ _, f =>
    (∃ b, f = .badAddress b b) ∨ (∃ field v, f = .argRange field v) ∨ ∃ field v, f = .contractViolation field v ∧
      (field = .src ∨ field = .txCount)
  | .encBlink _ _ _, f =>
    (∃ b, f = .badAddress b b) ∨ (∃ v, f = .argRange .rate v) ∨ ∃ field v, f = .contractViolation field v ∧
      (field = .src ∨ field = .txCount)
  | .incTx _, f => (∃ i, f = .malformedHex i) ∨ ∃ n, f = .malformedFrame n ∧ n < 7

end Sys2Proof
end

