-- ==== Sys2Proof/Certificates/Slice0/Obligations.lean ====
section
/-! DEFINITION. The statements for the provers, family by family, each with the rule of the spec it follows. The claims
about an operation come in one shape: its OP code decodes to it, it answers this next state on these operands, it
faults so on the others; the next state is written out whole, so each equation is the operation's frame as well. -/

open Sys2Proof Sys2Proof.Machine

/-- R100, R101: UNPACK_CW reads every field of a 16-bit word and faults on any other integer. -/
def Obligations.UnpackCwReadsEveryField : Prop :=
  (∀ a : Args, decodeRequest { op := 0x00, args := a } = .ok (.unpackCw a.cw)) ∧
  (∀ (n : Nat) (s : State), n ≤ 0xFFFF → ∃ f : CwFields,
    exec (.unpackCw (n : Int)) s = .next { s with response := some (.ok (.fields f) none) } ∧
    f.link = decide (n / 2 ^ 15 % 2 = 1) ∧ f.repeaterReq.toNat = n / 2 ^ 13 % 4 ∧ f.length.toNat = n / 2 ^ 8 % 32 ∧
    f.ackReq.toNat = n / 2 ^ 4 % 8 ∧ f.txCount.toNat = n / 2 ^ 2 % 4 ∧ f.txSeq.toNat = n % 4) ∧
  (∀ (cw : Int) (s : State), cw < 0 ∨ 0xFFFF < cw →
    exec (.unpackCw cw) s = .next { s with response := some (.fault (.contractViolation .cw cw)) })

/-- R63, R100: the reserved bit 7 is read by no field (two words, or two frames, that differ in it alone have the same
fields), is 0 in every word BUILD_CW gives, goes through ENCODE from an explicit word and through INC_TX unchanged. -/
def Obligations.ReservedBitIsReadByNoField : Prop :=
  (∀ (n : Nat) (s : State), n ≤ 0xFFFF → ∃ f : CwFields,
    exec (.unpackCw (n : Int)) s = .next { s with response := some (.ok (.fields f) none) } ∧
    exec (.unpackCw ((n ^^^ 0x80 : Nat) : Int)) s = .next { s with response := some (.ok (.fields f) none) }) ∧
  (∀ (b0 b1 : Byte) (rest : Bytes) (s : State), 4 ≤ rest.length → ∃ m : DecodedMessage,
    exec (.decode (b0 :: b1 :: rest)) s = .next { s with response := some (.ok (.message m) none) } ∧
    exec (.decode (b0 :: (b1 ^^^ 0x80) :: rest)) s = .next { s with response := some (.ok (.message m) none) }) ∧
  (∀ (addr : Address) (rep ack : Int) (s t : State) (w : ControlWord), exec (.buildCw addr rep ack) s = .next t →
    t.result = some (.word w) → w.getLsbD 7 = false) ∧
  (∀ (cw : Nat) (addr : Address) (src cmd : Int) (payload : Bytes) (s t : State) (text : Hex),
    exec (.encode (.word (cw : Int)) addr src cmd payload) s = .next t → t.result = some (.hex text) →
    ∃ (bs : Bytes) (low : Byte), unhex text = .ok bs ∧ bs[1]? = some low ∧ low.getLsbD 7 = cw.testBit 7) ∧
  (∀ (text text' : Hex) (s t : State), exec (.incTx text) s = .next t → t.result = some (.hex text') →
    ∃ (bs bs' : Bytes) (low low' : Byte), unhex text = .ok bs ∧ unhex text' = .ok bs' ∧ bs[1]? = some low ∧
      bs'[1]? = some low' ∧ low'.getLsbD 7 = low.getLsbD 7)

/-- R102, R103, R104: DECODE parses every frame of 6 or more bytes, whatever its length field, code or payload, and
faults exactly on a shorter one. -/
def Obligations.DecodeParsesEveryFrame : Prop :=
  (∀ a : Args, decodeRequest { op := 0x01, args := a } = .ok (.decode a.frame)) ∧
  (∀ (b0 b1 net dest src code : Byte) (data : Bytes) (s : State), ∃ m : DecodedMessage,
    exec (.decode (b0 :: b1 :: net :: dest :: src :: code :: data)) s =
      .next { s with response := some (.ok (.message m) none) } ∧
    m.link = decide (128 ≤ b0.toNat) ∧ m.repeaterReq.toNat = b0.toNat / 32 % 4 ∧ m.length.toNat = b0.toNat % 32 ∧
    m.ackReq.toNat = b1.toNat / 16 % 8 ∧ m.txCount.toNat = b1.toNat / 4 % 4 ∧ m.txSeq.toNat = b1.toNat % 4 ∧
    m.networkId = net ∧ m.destId = dest ∧ m.srcId = src ∧ m.msgId = code ∧ m.data = data) ∧
  (∀ (frame : Bytes) (s : State), frame.length < 6 →
    exec (.decode frame) s = .next { s with response := some (.fault (.malformedFrame frame.length)) })

/-- R106: REGISTER appends a handler once for a code, touches no other code, and records what it did. -/
def Obligations.RegisterAppendsOnce : Prop :=
  (∀ a : Args, decodeRequest { op := 0x02, args := a } = .ok (.register a.code a.handler)) ∧
  (∀ (code : Byte) (h : Handler) (s : State), h ∈ s.handlers code →
    exec (.register code h) s =
      .next { s with hist := s.hist ++ [.registered code h false], response := some (.ok .unit none) }) ∧
  (∀ (code : Byte) (h : Handler) (s : State), h ∉ s.handlers code → ∃ reg : Registry,
    exec (.register code h) s =
      .next { s with reg := reg, hist := s.hist ++ [.registered code h true], response := some (.ok .unit none) } ∧
    Registry.get reg code = s.handlers code ++ [h] ∧ ∀ c, c ≠ code → Registry.get reg c = s.handlers c)

/-- R49 (a), R106: registering the same handler for the same code again changes nothing in REG. -/
def Obligations.RegisterAgainIsNoOp : Prop :=
  ∀ (code : Byte) (h : Handler) (s : State), ∃ t u : State,
    exec (.register code h) s = .next t ∧ exec (.register code h) t = .next u ∧ u.reg = t.reg ∧
    u.hist = t.hist ++ [.registered code h false] ∧ u.response = t.response

/-- R108: DISPATCH returns the handlers of the message's code and the summary triple, and changes only HIST. -/
def Obligations.DispatchReturnsHandlersAndTriple : Prop :=
  (∀ a : Args, decodeRequest { op := 0x03, args := a } = .ok (.dispatch a.msg)) ∧
  (∀ (msg : DecodedMessage) (s : State),
    exec (.dispatch msg) s =
      .next { s with
        hist := s.hist ++ [.dispatched msg.msgId (s.handlers msg.msgId)]
        response := some (.ok (.summary msg.networkId msg.srcId (msg.txCount.toNat + 1))
          (some (s.handlers msg.msgId))) })

/-- R51, R107: a DISPATCH after a REGISTER sees it, at the end of its code's list, and no other code's list has changed. -/
def Obligations.DispatchSeesEarlierRegister : Prop :=
  ∀ (code : Byte) (h : Handler) (msg : DecodedMessage) (s : State), ∃ t u : State,
    exec (.register code h) s = .next t ∧ exec (.dispatch msg) t = .next u ∧
    u.invoke = some (if msg.msgId = code ∧ h ∉ s.handlers code then s.handlers code ++ [h] else s.handlers msg.msgId)

/-- R120, R121: CKSUM_GEN answers on every sequence the byte that makes the sum a multiple of 256. -/
def Obligations.CksumGenComplementsTheSum : Prop :=
  (∀ a : Args, decodeRequest { op := 0x04, args := a } = .ok (.cksumGen a.frame)) ∧
  (∀ (frame : Bytes) (s : State), ∃ b : Byte,
    exec (.cksumGen frame) s = .next { s with response := some (.ok (.byte b) none) } ∧
    b.toNat = (256 - (frame.map BitVec.toNat).sum % 256) % 256 ∧
    b.toNat = (256 - ((frame.map BitVec.toNat).sum : Int)) % 256 ∧
    ((frame.map BitVec.toNat).sum + b.toNat) % 256 = 0 ∧
    (b = 0 ↔ (frame.map BitVec.toNat).sum % 256 = 0))

/-- R122: CKSUM_VERIFY answers whether the sum of all bytes is 0 modulo 256, and faults on the empty sequence alone. -/
def Obligations.CksumVerifyAnswersTheInvariant : Prop :=
  (∀ a : Args, decodeRequest { op := 0x05, args := a } = .ok (.cksumVerify a.frame)) ∧
  (∀ (b : Byte) (rest : Bytes) (s : State),
    exec (.cksumVerify (b :: rest)) s =
      .next { s with response := some (.ok (.bool (decide (((b :: rest).map BitVec.toNat).sum % 256 = 0))) none) }) ∧
  (∀ s : State, exec (.cksumVerify []) s = .next { s with response := some (.fault (.malformedFrame 0)) })

/-- R123: a sequence followed by the byte CKSUM_GEN gives for it verifies. -/
def Obligations.VerifyAcceptsGeneratedChecksum : Prop :=
  ∀ (frame : Bytes) (s : State), ∃ b : Byte,
    exec (.cksumGen frame) s = .next { s with response := some (.ok (.byte b) none) } ∧
    exec (.cksumVerify (frame ++ [b])) s = .next { s with response := some (.ok (.bool true) none) }

/-- R124: a verified frame with one byte changed no longer verifies; a reordering, or changes that cancel modulo 256,
are not seen. -/
def Obligations.VerifyCatchesOneByteChange : Prop :=
  (∀ (left right : Bytes) (b c : Byte) (s : State), b ≠ c →
    ((left ++ b :: right).map BitVec.toNat).sum % 256 = 0 →
    exec (.cksumVerify (left ++ c :: right)) s = .next { s with response := some (.ok (.bool false) none) }) ∧
  (∀ (f g : Bytes) (s : State), f ≠ [] → g ≠ [] →
    (f.Perm g ∨ (f.map BitVec.toNat).sum % 256 = (g.map BitVec.toNat).sum % 256) →
    ∃ v : Bool, exec (.cksumVerify f) s = .next { s with response := some (.ok (.bool v) none) } ∧
      exec (.cksumVerify g) s = .next { s with response := some (.ok (.bool v) none) })

/-- R130, R131, R132: BUILD_CW packs its fields after one query, and faults in the order of its checks; rep and ack
have each the default 0 where left out. -/
def Obligations.BuildCwPacksItsFields : Prop :=
  (∀ a : Args, decodeRequest { op := 0x06, args := a } = .ok (.buildCw a.addr (a.rep.getD 0) (a.ack.getD 0))) ∧
  (∀ (addr : Address) (rep ack v : Nat) (s : State), addr.isLink ≠ addr.isDevice → rep ≤ 3 → ack ≤ 7 →
    s.nextTxAnswer addr.networkId addr.targetId = (v : Int) → 1 ≤ v → v ≤ 4 → ∃ w : ControlWord,
    exec (.buildCw addr (rep : Int) (ack : Int)) s =
      .next { s.afterQuery addr v with response := some (.ok (.word w) none) } ∧
    w.toNat = (if addr.isLink then 2 ^ 15 else 0) + rep * 2 ^ 13 + ack * 2 ^ 4 + (v - 1) * 2 ^ 2) ∧
  (∀ (addr : Address) (rep ack : Int) (s : State), addr.isLink = addr.isDevice →
    exec (.buildCw addr rep ack) s =
      .next { s with response := some (.fault (.badAddress addr.isLink addr.isDevice)) }) ∧
  (∀ (addr : Address) (rep ack : Int) (s : State), addr.isLink ≠ addr.isDevice → rep < 0 ∨ 3 < rep →
    exec (.buildCw addr rep ack) s =
      .next { s with response := some (.fault (.contractViolation .repeaterReq rep)) }) ∧
  (∀ (addr : Address) (rep ack : Int) (s : State), addr.isLink ≠ addr.isDevice → 0 ≤ rep → rep ≤ 3 →
    ack < 0 ∨ 7 < ack →
    exec (.buildCw addr rep ack) s = .next { s with response := some (.fault (.contractViolation .ackReq ack)) }) ∧
  (∀ (addr : Address) (rep ack v : Int) (s : State), addr.isLink ≠ addr.isDevice → 0 ≤ rep → rep ≤ 3 →
    0 ≤ ack → ack ≤ 7 → s.nextTxAnswer addr.networkId addr.targetId = v → v < 1 ∨ 4 < v →
    exec (.buildCw addr rep ack) s =
      .next { s.afterQuery addr v with response := some (.fault (.contractViolation .txCount v)) })

/-- R135, R136, R137, R139, R140, R141: ENCODE gives the hex string of the frame the spec lays out: of an
explicit control word with the length merged by LEN_MERGE and no query, or, with `auto`, of the word BUILD_CW would
build, after one query. It faults in the order of its checks; the query of an `auto` word stays. -/
def Obligations.EncodeGivesTheFrameOrTheFirstFault : Prop :=
  (∀ a : Args, decodeRequest { op := 0x07, args := a } = .ok (.encode a.encCw a.addr a.src a.cmd a.payload)) ∧
  (∀ (cw src cmd : Nat) (addr : Address) (payload : Bytes) (s : State), addr.isLink ≠ addr.isDevice →
    cw ≤ 0xFFFF → src ≤ 255 → cmd ≤ 255 → payload.length ≤ 24 →
    exec (.encode (.word (cw : Int)) addr (src : Int) (cmd : Int) payload) s =
      .next { s with response := some (.ok (.hex (hexOf
        (wireFrame (mergedWord s.params.lenMerge cw (7 + payload.length)) addr src cmd payload))) none) }) ∧
  (∀ (src cmd v : Nat) (addr : Address) (payload : Bytes) (s : State), addr.isLink ≠ addr.isDevice →
    src ≤ 255 → cmd ≤ 255 → payload.length ≤ 24 →
    s.nextTxAnswer addr.networkId addr.targetId = (v : Int) → 1 ≤ v → v ≤ 4 →
    exec (.encode .auto addr (src : Int) (cmd : Int) payload) s =
      .next { s.afterQuery addr v with response := some (.ok (.hex (hexOf
        (wireFrame (autoWord addr v payload.length) addr src cmd payload))) none) }) ∧
  (∀ (cw : CwOperand) (addr : Address) (src cmd : Int) (payload : Bytes) (s : State), addr.isLink = addr.isDevice →
    exec (.encode cw addr src cmd payload) s =
      .next { s with response := some (.fault (.badAddress addr.isLink addr.isDevice)) }) ∧
  (∀ (cw : CwOperand) (addr : Address) (src cmd : Int) (payload : Bytes) (s : State), addr.isLink ≠ addr.isDevice →
    src < 0 ∨ 255 < src →
    exec (.encode cw addr src cmd payload) s =
      .next { s with response := some (.fault (.contractViolation .src src)) }) ∧
  (∀ (cw : CwOperand) (addr : Address) (src cmd : Int) (payload : Bytes) (s : State), addr.isLink ≠ addr.isDevice →
    0 ≤ src → src ≤ 255 → cmd < 0 ∨ 255 < cmd →
    exec (.encode cw addr src cmd payload) s =
      .next { s with response := some (.fault (.contractViolation .cmd cmd)) }) ∧
  (∀ (cw : Int) (addr : Address) (src cmd : Nat) (payload : Bytes) (s : State), addr.isLink ≠ addr.isDevice →
    src ≤ 255 → cmd ≤ 255 → cw < 0 ∨ 0xFFFF < cw →
    exec (.encode (.word cw) addr (src : Int) (cmd : Int) payload) s =
      .next { s with response := some (.fault (.contractViolation .cw cw)) }) ∧
  (∀ (cw : Nat) (addr : Address) (src cmd : Nat) (payload : Bytes) (s : State), addr.isLink ≠ addr.isDevice →
    src ≤ 255 → cmd ≤ 255 → cw ≤ 0xFFFF → 25 ≤ payload.length →
    exec (.encode (.word (cw : Int)) addr (src : Int) (cmd : Int) payload) s =
      .next { s with response := some (.fault (.frameTooLong (7 + payload.length))) }) ∧
  (∀ (v : Int) (addr : Address) (src cmd : Nat) (payload : Bytes) (s : State), addr.isLink ≠ addr.isDevice →
    src ≤ 255 → cmd ≤ 255 → s.nextTxAnswer addr.networkId addr.targetId = v → v < 1 ∨ 4 < v →
    exec (.encode .auto addr (src : Int) (cmd : Int) payload) s =
      .next { s.afterQuery addr v with response := some (.fault (.contractViolation .txCount v)) }) ∧
  (∀ (v : Int) (addr : Address) (src cmd : Nat) (payload : Bytes) (s : State), addr.isLink ≠ addr.isDevice →
    src ≤ 255 → cmd ≤ 255 → s.nextTxAnswer addr.networkId addr.targetId = v → 1 ≤ v → v ≤ 4 → 25 ≤ payload.length →
    exec (.encode .auto addr (src : Int) (cmd : Int) payload) s =
      .next { s.afterQuery addr v with response := some (.fault (.frameTooLong (7 + payload.length))) })

/-- R141: every frame an encoder of the block returns parses, sums to 0 modulo 256 and verifies. The operations are
ENCODE and the seven ENC_* operations. -/
def Obligations.EveryEncodedFrameVerifies : Prop :=
  ∀ (i : Instr) (s t : State) (text : Hex),
    ((∃ cw addr src cmd payload, i = .encode cw addr src cmd payload) ∨ (∃ addr src, i = .encActivate addr src) ∨
      (∃ addr src, i = .encDeactivate addr src) ∨ (∃ addr src level rate, i = .encGoto addr src level rate) ∨
      (∃ addr src level rate, i = .encFadeStart addr src level rate) ∨ (∃ addr src, i = .encFadeStop addr src) ∨
      (∃ addr src rate, i = .encBlink addr src rate) ∨ (∃ addr src, i = .encReportState addr src)) →
    exec i s = .next t → t.result = some (.hex text) → ∃ bs : Bytes,
      exec (.hexParse text) t = .next { t with response := some (.ok (.bytes bs) none) } ∧
      7 ≤ bs.length ∧ bs.length ≤ 31 ∧ (bs.map BitVec.toNat).sum % 256 = 0 ∧
      exec (.cksumVerify bs) t = .next { t with response := some (.ok (.bool true) none) }

/-- R145: DECODE of what ENCODE returned recovers the ids, the code and the payload: with the checksum byte left on as
the data's last byte, and with it stripped exactly. The decoded length is the frame's, or, under LEN_MERGE = OR, the
explicit word's length field ORed with it. -/
def Obligations.EncodedFrameDecodesBack : Prop :=
  ∀ (cw : CwOperand) (addr : Address) (src cmd : Int) (payload : Bytes) (s t : State) (text : Hex),
    exec (.encode cw addr src cmd payload) s = .next t → t.result = some (.hex text) →
    ∃ (bs : Bytes) (ck : Byte) (m : DecodedMessage),
      exec (.hexParse text) t = .next { t with response := some (.ok (.bytes bs) none) } ∧
      exec (.decode bs) t =
        .next { t with response := some (.ok (.message { m with data := payload ++ [ck] }) none) } ∧
      exec (.decode (stripChecksum bs)) t = .next { t with response := some (.ok (.message m) none) } ∧
      m.data = payload ∧ m.networkId = addr.networkId ∧ m.destId = addr.targetId ∧
      (m.srcId.toNat : Int) = src ∧ (m.msgId.toNat : Int) = cmd ∧
      m.length.toNat = decodedLength s.params.lenMerge cw (7 + payload.length)

/-- R138: the two readings of LEN_MERGE agree for `auto` and for every explicit word whose length field is 0. -/
def Obligations.LengthMergeModesAgree : Prop :=
  ∀ (cw : CwOperand) (addr : Address) (src cmd : Int) (payload : Bytes) (s : State),
    (∀ v : Int, cw = .word v → v / 2 ^ 8 % 2 ^ 5 = 0) → ∃ t u : State,
      exec (.encode cw addr src cmd payload) { s with params := { s.params with lenMerge := .replace } } = .next t ∧
      exec (.encode cw addr src cmd payload) { s with params := { s.params with lenMerge := .or } } = .next u ∧
      t.response = u.response

/-- R45, R142: HEX_SERIALIZE writes every byte as two uppercase digits, the high one first, and nothing else. -/
def Obligations.HexSerializeWritesUppercaseDigits : Prop :=
  (∀ a : Args, decodeRequest { op := 0x08, args := a } = .ok (.hexSerialize a.frame)) ∧
  (∀ (frame : Bytes) (s : State), ∃ text : Hex,
    exec (.hexSerialize frame) s = .next { s with response := some (.ok (.hex text) none) } ∧
    text.length = 2 * frame.length ∧
    ∀ (k : Nat) (b : Byte), frame[k]? = some b →
      text[2 * k]? = "0123456789ABCDEF".toList[b.toNat / 16]? ∧
      text[2 * k + 1]? = "0123456789ABCDEF".toList[b.toNat % 16]?)

/-- R143: HEX_PARSE reads two digits of either case a byte, faults on an odd length first, and then at the lowest index
whose character is no digit. -/
def Obligations.HexParseReadsDigitPairs : Prop :=
  (∀ a : Args, decodeRequest { op := 0x09, args := a } = .ok (.hexParse a.text)) ∧
  (∀ (c : Char) (d : Nibble), hexVal c = some d ↔
    ("0123456789ABCDEF".toList[d.toNat]? = some c ∨ "0123456789abcdef".toList[d.toNat]? = some c)) ∧
  (∀ (text : Hex) (bs : Bytes) (s : State), text.length = 2 * bs.length →
    (∀ (k : Nat) (b : Byte), bs[k]? = some b → ∃ (x y : Char) (hi lo : Nibble),
      text[2 * k]? = some x ∧ text[2 * k + 1]? = some y ∧ hexVal x = some hi ∧ hexVal y = some lo ∧
      b.toNat = hi.toNat * 16 + lo.toNat) →
    exec (.hexParse text) s = .next { s with response := some (.ok (.bytes bs) none) }) ∧
  (∀ (text : Hex) (s : State), text.length % 2 = 1 →
    exec (.hexParse text) s = .next { s with response := some (.fault (.malformedHex text.length)) }) ∧
  (∀ (good bad : Hex) (c : Char) (s : State), (good ++ c :: bad).length % 2 = 0 →
    (∀ x ∈ good, hexVal x ≠ none) → hexVal c = none →
    exec (.hexParse (good ++ c :: bad)) s = .next { s with response := some (.fault (.malformedHex good.length)) })

/-- R144: parsing a serialized sequence gives the sequence, and serializing a parsed string gives the string with its
letters made uppercase. -/
def Obligations.HexParseAndSerializeAreInverse : Prop :=
  (∀ (frame : Bytes) (s : State), ∃ text : Hex,
    exec (.hexSerialize frame) s = .next { s with response := some (.ok (.hex text) none) } ∧
    exec (.hexParse text) s = .next { s with response := some (.ok (.bytes frame) none) }) ∧
  (∀ (text : Hex) (s t : State) (bs : Bytes), exec (.hexParse text) s = .next t → t.result = some (.bytes bs) →
    exec (.hexSerialize bs) t = .next { t with response := some (.ok (.hex (text.map Char.toUpper)) none) })

/-- R69, R151, R152, R160: LEVEL_PAYLOAD gives the payload of R69's table, and faults in the order of its checks. -/
def Obligations.LevelPayloadGivesTheTable : Prop :=
  (∀ a : Args, decodeRequest { op := 0x0A, args := a } = .ok (.levelPayload a.addr a.level a.rate)) ∧
  (∀ (addr : Address) (level : Nat) (rate : Int) (p : Bytes) (s : State), addr.isLink ≠ addr.isDevice →
    level ≤ 255 → -1 ≤ rate → rate ≤ 255 → levelForm addr level rate p →
    exec (.levelPayload addr (level : Int) rate) s = .next { s with response := some (.ok (.bytes p) none) }) ∧
  (∀ (addr : Address) (level rate : Int) (s : State), addr.isLink = addr.isDevice →
    exec (.levelPayload addr level rate) s =
      .next { s with response := some (.fault (.badAddress addr.isLink addr.isDevice)) }) ∧
  (∀ (addr : Address) (level rate : Int) (s : State), addr.isLink ≠ addr.isDevice → level < 0 ∨ 255 < level →
    exec (.levelPayload addr level rate) s =
      .next { s with response := some (.fault (.argRange .level (some level))) }) ∧
  (∀ (addr : Address) (level rate : Int) (s : State), addr.isLink ≠ addr.isDevice → 0 ≤ level → level ≤ 255 →
    rate < -1 ∨ 255 < rate →
    exec (.levelPayload addr level rate) s =
      .next { s with response := some (.fault (.argRange .rate (some rate))) }) ∧
  (∀ (addr : Address) (level rate : Int) (s : State), addr.isLink = false → addr.isDevice = true →
    addr.multiChannel = true → 0 ≤ level → level ≤ 255 → -1 ≤ rate → rate ≤ 255 →
    (addr.channel = none → exec (.levelPayload addr level rate) s =
      .next { s with response := some (.fault (.argRange .channel none)) }) ∧
    (∀ ch : Nat, addr.channel = some ch → 254 < ch → exec (.levelPayload addr level rate) s =
      .next { s with response := some (.fault (.argRange .channel (some (ch : Int)))) }))

/-- R150, R153, R154, R157, R159: ENC_ACTIVATE, ENC_DEACTIVATE, ENC_FADE_STOP and ENC_REPORT_STATE give the 7-byte frame
of their command after one query, and fault in the order of ENCODE's checks. -/
def Obligations.EmptyPayloadCommandsGiveTheirFrame : Prop :=
  (∀ a : Args, decodeRequest { op := 0x0B, args := a } = .ok (.encActivate a.addr a.src) ∧
    decodeRequest { op := 0x0C, args := a } = .ok (.encDeactivate a.addr a.src) ∧
    decodeRequest { op := 0x0F, args := a } = .ok (.encFadeStop a.addr a.src) ∧
    decodeRequest { op := 0x11, args := a } = .ok (.encReportState a.addr a.src)) ∧
  (∀ (addr : Address) (src v : Nat) (s : State) (i : Instr) (cmd : Byte), addr.isLink ≠ addr.isDevice → src ≤ 255 →
    s.nextTxAnswer addr.networkId addr.targetId = (v : Int) → 1 ≤ v → v ≤ 4 →
    (i, cmd) ∈ [(Instr.encActivate addr (src : Int), s.params.cmd.activate),
      (Instr.encDeactivate addr (src : Int), s.params.cmd.deactivate),
      (Instr.encFadeStop addr (src : Int), s.params.cmd.fadeStop),
      (Instr.encReportState addr (src : Int), s.params.cmd.reportState)] →
    exec i s = .next { s.afterQuery addr v with response := some (.ok (.hex (hexOf
      (wireFrame (autoWord addr v 0) addr src cmd.toNat []))) none) }) ∧
  (∀ (addr : Address) (src v : Int) (s : State) (i : Instr),
    i ∈ [Instr.encActivate addr src, .encDeactivate addr src, .encFadeStop addr src, .encReportState addr src] →
    (addr.isLink = addr.isDevice →
      exec i s = .next { s with response := some (.fault (.badAddress addr.isLink addr.isDevice)) }) ∧
    (addr.isLink ≠ addr.isDevice → src < 0 ∨ 255 < src →
      exec i s = .next { s with response := some (.fault (.contractViolation .src src)) }) ∧
    (addr.isLink ≠ addr.isDevice → 0 ≤ src → src ≤ 255 → s.nextTxAnswer addr.networkId addr.targetId = v →
      v < 1 ∨ 4 < v →
      exec i s = .next { s.afterQuery addr v with response := some (.fault (.contractViolation .txCount v)) }))

/-- R150, R155, R156: ENC_GOTO and ENC_FADE_START give the frame of their command with the level/rate payload, after one
query; a fault of the payload comes first and makes no query, then the faults of ENCODE in its order. -/
def Obligations.LevelCommandsGiveTheirFrame : Prop :=
  (∀ a : Args, decodeRequest { op := 0x0D, args := a } = .ok (.encGoto a.addr a.src a.level a.rate) ∧
    decodeRequest { op := 0x0E, args := a } = .ok (.encFadeStart a.addr a.src a.level a.rate)) ∧
  (∀ (addr : Address) (src level v : Nat) (rate : Int) (p : Bytes) (s : State) (i : Instr) (cmd : Byte),
    addr.isLink ≠ addr.isDevice → src ≤ 255 → level ≤ 255 → -1 ≤ rate → rate ≤ 255 → levelForm addr level rate p →
    s.nextTxAnswer addr.networkId addr.targetId = (v : Int) → 1 ≤ v → v ≤ 4 →
    (i, cmd) ∈ [(Instr.encGoto addr (src : Int) (level : Int) rate, s.params.cmd.goto),
      (Instr.encFadeStart addr (src : Int) (level : Int) rate, s.params.cmd.fadeStart)] →
    exec i s = .next { s.afterQuery addr v with response := some (.ok (.hex (hexOf
      (wireFrame (autoWord addr v p.length) addr src cmd.toNat p))) none) }) ∧
  (∀ (addr : Address) (src level rate : Int) (s t : State) (f : BlockFault),
    exec (.levelPayload addr level rate) s = .next t → t.finfo = some f →
    exec (.encGoto addr src level rate) s = .next { s with response := some (.fault f) } ∧
    exec (.encFadeStart addr src level rate) s = .next { s with response := some (.fault f) }) ∧
  (∀ (addr : Address) (src level rate v : Int) (p : Bytes) (s t : State) (i : Instr),
    exec (.levelPayload addr level rate) s = .next t → t.result = some (.bytes p) →
    i ∈ [Instr.encGoto addr src level rate, .encFadeStart addr src level rate] →
    (src < 0 ∨ 255 < src → exec i s = .next { s with response := some (.fault (.contractViolation .src src)) }) ∧
    (0 ≤ src → src ≤ 255 → s.nextTxAnswer addr.networkId addr.targetId = v → v < 1 ∨ 4 < v →
      exec i s = .next { s.afterQuery addr v with response := some (.fault (.contractViolation .txCount v)) }))

/-- R150, R158: ENC_BLINK gives the 8-byte frame of its command with the rate as payload, after one query, and faults on
a rate outside 0..255 with none, before the faults of ENCODE in its order. -/
def Obligations.BlinkGivesItsFrame : Prop :=
  (∀ a : Args, decodeRequest { op := 0x10, args := a } = .ok (.encBlink a.addr a.src a.rate)) ∧
  (∀ (addr : Address) (src rate v : Nat) (s : State), addr.isLink ≠ addr.isDevice → src ≤ 255 → rate ≤ 255 →
    s.nextTxAnswer addr.networkId addr.targetId = (v : Int) → 1 ≤ v → v ≤ 4 →
    exec (.encBlink addr (src : Int) (rate : Int)) s =
      .next { s.afterQuery addr v with response := some (.ok (.hex (hexOf
        (wireFrame (autoWord addr v 1) addr src s.params.cmd.blink.toNat [BitVec.ofNat 8 rate]))) none) }) ∧
  (∀ (addr : Address) (src rate : Int) (s : State), addr.isLink = addr.isDevice →
    exec (.encBlink addr src rate) s =
      .next { s with response := some (.fault (.badAddress addr.isLink addr.isDevice)) }) ∧
  (∀ (addr : Address) (src rate : Int) (s : State), addr.isLink ≠ addr.isDevice → rate < 0 ∨ 255 < rate →
    exec (.encBlink addr src rate) s = .next { s with response := some (.fault (.argRange .rate (some rate))) }) ∧
  (∀ (addr : Address) (src rate : Int) (s : State), addr.isLink ≠ addr.isDevice → 0 ≤ rate → rate ≤ 255 →
    src < 0 ∨ 255 < src →
    exec (.encBlink addr src rate) s = .next { s with response := some (.fault (.contractViolation .src src)) }) ∧
  (∀ (addr : Address) (src rate v : Int) (s : State), addr.isLink ≠ addr.isDevice → 0 ≤ rate → rate ≤ 255 →
    0 ≤ src → src ≤ 255 → s.nextTxAnswer addr.networkId addr.targetId = v → v < 1 ∨ 4 < v →
    exec (.encBlink addr src rate) s =
      .next { s.afterQuery addr v with response := some (.fault (.contractViolation .txCount v)) })

/-- R150, R204: a command-specific encoder whose payload is computed is ENCODE with `auto` and its command's byte, in
its faults too. -/
def Obligations.CommandsExpandIntoEncode : Prop :=
  ∀ (addr : Address) (src level rate : Int) (s : State),
    exec (.encActivate addr src) s = exec (.encode .auto addr src s.params.cmd.activate.toNat []) s ∧
    exec (.encDeactivate addr src) s = exec (.encode .auto addr src s.params.cmd.deactivate.toNat []) s ∧
    exec (.encFadeStop addr src) s = exec (.encode .auto addr src s.params.cmd.fadeStop.toNat []) s ∧
    exec (.encReportState addr src) s = exec (.encode .auto addr src s.params.cmd.reportState.toNat []) s ∧
    (∀ (p : Bytes) (t : State), exec (.levelPayload addr level rate) s = .next t → t.result = some (.bytes p) →
      exec (.encGoto addr src level rate) s = exec (.encode .auto addr src s.params.cmd.goto.toNat p) s ∧
      exec (.encFadeStart addr src level rate) s = exec (.encode .auto addr src s.params.cmd.fadeStart.toNat p) s) ∧
    (addr.isLink ≠ addr.isDevice → 0 ≤ rate → rate ≤ 255 →
      exec (.encBlink addr src rate) s =
        exec (.encode .auto addr src s.params.cmd.blink.toNat [BitVec.ofInt 8 rate]) s)

/-- R170, R171, R172, R173: INC_TX increments the tx_count bits of the byte at index 1 and recomputes the checksum,
returns a saturated string verbatim, and faults on what does not parse or has fewer than 7 bytes. -/
def Obligations.IncTxIncrementsAndSaturates : Prop :=
  (∀ a : Args, decodeRequest { op := 0x12, args := a } = .ok (.incTx a.text)) ∧
  (∀ (text : Hex) (b0 b1 : Byte) (rest : Bytes) (s : State), unhex text = .ok (b0 :: b1 :: rest) → 5 ≤ rest.length →
    b1.toNat / 4 % 4 < 3 →
    exec (.incTx text) s = .next { s with response := some (.ok (.hex (hexOf
      ((b0 :: BitVec.ofNat 8 (b1.toNat + 4) :: rest.dropLast) ++
        [BitVec.ofNat 8 (256 - ((b0 :: BitVec.ofNat 8 (b1.toNat + 4) :: rest.dropLast).map BitVec.toNat).sum % 256)])))
      none) }) ∧
  (∀ (text : Hex) (b0 b1 : Byte) (rest : Bytes) (s : State), unhex text = .ok (b0 :: b1 :: rest) → 5 ≤ rest.length →
    b1.toNat / 4 % 4 = 3 →
    exec (.incTx text) s = .next { s with response := some (.ok (.hex text) none) }) ∧
  (∀ (text : Hex) (f : BlockFault) (s : State), unhex text = .error f →
    exec (.incTx text) s = .next { s with response := some (.fault f) }) ∧
  (∀ (text : Hex) (bs : Bytes) (s : State), unhex text = .ok bs → bs.length < 7 →
    exec (.incTx text) s = .next { s with response := some (.fault (.malformedFrame bs.length)) })

/-- R173, R174: what INC_TX returns differs from its input in at most the byte at index 1, whose bits 3..2 go one up and
never wrap, and the last byte; where it does not saturate the result verifies. -/
def Obligations.IncTxChangesOnlyCountAndChecksum : Prop :=
  ∀ (text text' : Hex) (bs : Bytes) (s t : State), unhex text = .ok bs → exec (.incTx text) s = .next t →
    t.result = some (.hex text') → ∃ (bs' : Bytes) (low low' : Byte),
      unhex text' = .ok bs' ∧ bs'.length = bs.length ∧ bs[1]? = some low ∧ bs'[1]? = some low' ∧
      low'.toNat / 4 % 4 = min 3 (low.toNat / 4 % 4 + 1) ∧ low'.toNat / 16 = low.toNat / 16 ∧
      low'.toNat % 4 = low.toNat % 4 ∧
      (∀ k : Nat, k ≠ 1 → k + 1 ≠ bs.length → bs'[k]? = bs[k]?) ∧
      (low.toNat / 4 % 4 = 3 → text' = text) ∧
      (low.toNat / 4 % 4 < 3 →
        exec (.cksumVerify bs') t = .next { t with response := some (.ok (.bool true) none) })

/-- R9, R80: where a request stands on the port and decodes to an operation, the step runs that operation, with the
request, the response and the query exchange of the transaction before taken off the ports first. That the step takes
them down first is the model's own reading (log entry 2). -/
def Obligations.StepRunsTheDecodedRequest : Prop :=
  ∀ (s : State) (r : Request) (i : Instr), s.request = some r → decodeRequest r = .ok i → i.wellFormed = true →
    step s = exec i { s with request := none, response := none, txq := none }

/-- R81: an OP value of 0x13 to 0xFF faults IllegalOp with that value, whatever the operands, and has no other effect.
That the step takes the TXQ ports of the transaction before down is the model's own reading, no part of R81 (log entry
2). -/
def Obligations.UnusedOpFaultsIllegalOp : Prop :=
  ∀ (s : State) (op : Byte) (a : Args), s.request = some { op := op, args := a } → 0x13 ≤ op.toNat →
    step s = .next { s with request := none, response := some (.fault (.illegalOp op)), txq := none }

/-- R21, R230, and the model's own reading of the host's turn (log entry 1): with no request on the port the host
presents the next one of its list; with none left, nothing changes. -/
def Obligations.IdleStepIsTheHostsTurn : Prop :=
  (∀ (s : State) (r : Request) (rest : List Request), s.request = none → s.pending = r :: rest →
    step s = .next { s with request := some r, pending := rest }) ∧
  (∀ s : State, s.request = none → s.pending = [] → step s = .next s)

/-- R200: every request on the port is answered by one response in one step, and the port is free again. -/
def Obligations.EveryRequestGetsOneResponse : Prop :=
  ∀ (s : State) (r : Request), s.request = some r → ∃ (t : State) (resp : Response),
    step s = .next t ∧ t.response = some resp ∧ t.request = none ∧ t.pending = s.pending

/-- R224: the machine never stops, and every request the host has issued or will issue has its response after one step
for the one on the port and two for each that is pending. The host's list and its turns are the model's own (log entry
1), and so is that a run does not wait for a request an earlier reset aborted (log entry 24). -/
def Obligations.EveryRunEnds : Prop :=
  ∀ s : State, ∃ t : State,
    Sys2Proof.core.run (2 * s.pending.length + if s.request.isSome then 1 else 0) s = .next t ∧ t.endOfRun = true

/-- R31: a result has the type R31 gives its operation, and a DISPATCH alone drives INVOKE. -/
def Obligations.ResultsHaveTheirType : Prop :=
  ∀ (i : Instr) (s t : State) (r : Result) (hs : Option (List Handler)), exec i s = .next t →
    t.response = some (.ok r hs) → i.resultTyped r ∧ (hs.isSome = true ↔ ∃ msg, i = .dispatch msg)

/-- R201, R202: an operation raises only the faults R201 lists for it, with their FCODE values. -/
def Obligations.OnlyListedFaultsAreRaised : Prop :=
  (∀ (i : Instr) (s t : State) (f : BlockFault), exec i s = .next t → t.response = some (.fault f) →
    i.mayFault f ∧ t.status = some .fault ∧ t.fcodePort = some (fcode f) ∧ t.result = none ∧ t.invoke = none) ∧
  (∀ n : Nat, fcode (.malformedFrame n) = 0x01 ∧ fcode (.frameTooLong n) = 0x02 ∧ fcode (.malformedHex n) = 0x06) ∧
  (∀ (field : ContractField) (v : Int), fcode (.contractViolation field v) = 0x03) ∧
  (∀ a b : Bool, fcode (.badAddress a b) = 0x04) ∧
  (∀ (field : ArgField) (v : Option Int), fcode (.argRange field v) = 0x05) ∧
  (∀ op : Byte, fcode (.illegalOp op) = 0x07)

/-- R203: a faulting operation has no result and changes nothing but the response port; the one effect that stays is a
query already made. REGISTER and DISPATCH never fault. -/
def Obligations.FaultKeepsOnlyTheQuery : Prop :=
  ∀ (i : Instr) (s t : State) (f : BlockFault), exec i s = .next t → t.response = some (.fault f) →
    t.result = none ∧ (∀ code h, i ≠ .register code h) ∧ (∀ msg, i ≠ .dispatch msg) ∧
    (t = { s with response := some (.fault f) } ∨
      ∃ addr : Address, i.queries = some addr ∧
        t = { s.afterQuery addr (s.nextTxAnswer addr.networkId addr.targetId) with response := some (.fault f) })

/-- R49, the frame of UNPACK_CW, DECODE, CKSUM_GEN, CKSUM_VERIFY, HEX_SERIALIZE, HEX_PARSE, LEVEL_PAYLOAD, INC_TX and
ENCODE of an explicit word: nothing but the response port changes. -/
def Obligations.PureOperationsChangeOnlyTheResponse : Prop :=
  ∀ (i : Instr) (s t : State), i.isPure = true → exec i s = .next t →
    t.response ≠ none ∧ t = { s with response := t.response }

/-- R27, the frame of BUILD_CW, ENCODE with `auto` and the seven ENC_* operations: REG, the parameters, the request port
and the host's list are untouched; an Ok answer came after exactly one query; a fault came after none or one. -/
def Obligations.EncodersQueryExactlyOnce : Prop :=
  ∀ (i : Instr) (addr : Address) (s t : State), i.queries = some addr → exec i s = .next t →
    t.response ≠ none ∧
    (t = { s.afterQuery addr (s.nextTxAnswer addr.networkId addr.targetId) with response := t.response } ∨
      (t = { s with response := t.response } ∧ t.status = some .fault))

/-- R25, R30: only REGISTER writes REG, and no operation removes or reorders a handler. -/
def Obligations.OnlyRegisterWritesTheRegistry : Prop :=
  ∀ (i : Instr) (s t : State), exec i s = .next t →
    (t.reg = s.reg ∨ ∃ code h, i = .register code h) ∧ ∀ code : Byte, s.handlers code <+: t.handlers code

/-- R28: HIST only grows, by at most one event an operation; a TxQuery event comes from an operation that queries, a
Registered event from REGISTER, a Dispatched event from DISPATCH. -/
def Obligations.HistoryGrowsByTheOperationsEvent : Prop :=
  ∀ (i : Instr) (s t : State), exec i s = .next t →
    t.hist = s.hist ∨ ∃ e : Event, t.hist = s.hist ++ [e] ∧
      match e with
      | .txQuery net tgt _ => ∃ addr, i.queries = some addr ∧ addr.networkId = net ∧ addr.targetId = tgt
      | .registered code h _ => i = .register code h
      | .dispatched code _ => ∃ msg, i = .dispatch msg ∧ msg.msgId = code

/-- R20, R23, R28: two states with the same REG, source and parameters answer alike, whatever response, exchange,
history or host list they hold: nothing an operation computes survives into the next but REG. -/
def Obligations.AnswersDependOnlyOnRegistryAndSource : Prop :=
  ∀ (i : Instr) (s u t w : State), s.reg = u.reg → s.txAnswers = u.txAnswers → s.txDraws = u.txDraws →
    s.params = u.params → exec i s = .next t → exec i u = .next w →
    t.response = w.response ∧ t.reg = w.reg ∧ t.txAnswers = w.txAnswers ∧ t.txDraws = w.txDraws ∧
    ∃ es : List Event, t.hist = s.hist ++ es ∧ w.hist = u.hist ++ es

/-- R7, R233: no step changes the parameters. -/
def Obligations.ParametersNeverChange : Prop :=
  ∀ s t : State, step s = .next t → t.params = s.params

/-- R25, R51, R72, R106, R107: the invariant of the block is kept by every step, whatever the host presents. -/
def Obligations.StepKeepsTheInvariant : Prop :=
  ∀ s t : State, s.Inv → step s = .next t → t.Inv

/-- The invariant holds after reset (R32, R230). It rests on the default CMD_CODE table (log entry 5) for its clause
that CMD_CODE is injective. -/
def Obligations.ResetMeetsTheInvariant : Prop := State.reset.Inv

/-- R231: a reset of the block keeps the invariant, aborts a transaction in progress, clears the ports, REG and HIST, and
leaves the source, the parameters and the host's list alone; where it comes after the transaction's query, the source
has answered and the query's event stays. That the host's list stays, and that this one event is what HIST then holds,
are the model's own readings (log entry 10). -/
def Obligations.BlockResetClearsTheBlock : Prop :=
  ∀ s : State, (s.Inv → s.blockReset.Inv ∧ ∀ net tgt : Byte, (s.resetAfterQuery net tgt).Inv) ∧
    s.blockReset.request = none ∧ s.blockReset.response = none ∧
    (∀ code : Byte, s.blockReset.handlers code = []) ∧ s.blockReset.hist = [] ∧
    s.blockReset = { State.reset with
      txAnswers := s.txAnswers, txDraws := s.txDraws, params := s.params, pending := s.pending } ∧
    ∀ addr : Address, s.resetAfterQuery addr.networkId addr.targetId =
      { (s.afterQuery addr (s.nextTxAnswer addr.networkId addr.targetId)).blockReset with
        hist := [.txQuery addr.networkId addr.targetId (s.nextTxAnswer addr.networkId addr.targetId)] }

/-- R32, R230: after reset no transaction is in progress, no response has been given, every entry of REG is empty and
HIST is empty. -/
def Obligations.ResetLeavesTheBlockIdle : Prop :=
  State.reset.request = none ∧ State.reset.txq = none ∧ State.reset.status = none ∧ State.reset.result = none ∧
  State.reset.fcodePort = none ∧ State.reset.finfo = none ∧ State.reset.invoke = none ∧
  (∀ code : Byte, State.reset.handlers code = []) ∧ State.reset.hist = []

/-- R80, R82: every operation's request decodes back to it with every operand; a request decodes to an operation of its
own OP value, and to none exactly for 0x13 to 0xFF. -/
def Obligations.RequestsDecodeAndEncodeAgree : Prop :=
  (∀ i : Instr, decodeRequest (encodeRequest i) = .ok i) ∧
  (∀ (r : Request) (i : Instr), decodeRequest r = .ok i →
    (encodeRequest i).op = r.op ∧ decodeRequest (encodeRequest i) = decodeRequest r) ∧
  (∀ r : Request, decodeRequest r = .error (.illegalOp r.op) ↔ 0x13 ≤ r.op.toNat) ∧
  (∀ i j : Instr, encodeRequest i = encodeRequest j → i = j)

/-- R80, R81: a few OP bytes of the table, written out, decode to their operations; that an operand no bit of which is
given is zero is the model's choice (log entry 3). -/
def Obligations.TableWordsDecode : Prop :=
  decodeTableWord 8 0x00 = some (.unpackCw 0) ∧ decodeTableWord 8 0x02 = some (.register 0 ⟨0⟩) ∧
  decodeTableWord 8 0x05 = some (.cksumVerify []) ∧ decodeTableWord 8 0x07 = some (.encode (.word 0) zeroAddress 0 0 []) ∧
  decodeTableWord 8 0x10 = some (.encBlink zeroAddress 0 0) ∧ decodeTableWord 8 0x12 = some (.incTx []) ∧
  decodeTableWord 8 0x13 = none ∧ decodeTableWord 8 0xFF = none

/-- R86: in a program's responses a fault can only be the last, and a program with no fault has one response a
request. From a state in which a request already stands on the port, that the program's first replaces it is the model's
own reading (log entry 23). -/
def Obligations.ProgramStopsAtItsFirstFault : Prop :=
  ∀ (rs : List Request) (s : State),
    (∀ (before after : List Response) (f : BlockFault),
      (runProgram rs s).1 = before ++ .fault f :: after → after = []) ∧
    ((∀ f : BlockFault, Response.fault f ∉ (runProgram rs s).1) → (runProgram rs s).1.length = rs.length)

/-- R109, R110: the host invokes handlers in list order, each with the one message, up to and including the first that
raises, whose failure goes to the caller. -/
def Obligations.HandlersAreInvokedInOrderUntilOneFails : Prop :=
  ∀ (raises : Handler → Bool) (msg : DecodedMessage),
    (∀ hs : List Handler, (∀ h ∈ hs, raises h = false) →
      invokeHandlers raises msg hs = { calls := hs.map fun h => (h, msg), failure := none }) ∧
    (∀ (good after : List Handler) (h : Handler), (∀ g ∈ good, raises g = false) → raises h = true →
      invokeHandlers raises msg (good ++ h :: after) =
        { calls := (good ++ [h]).map fun g => (g, msg), failure := some h })
end

