-- ==== Sys2Proof/Laws/Buffers.lean ====
section
/-! SUPPORT. Byte sequences, the checksum and the hex strings: the laws of the operations over IN and OUT. -/

namespace Sys2Proof.Machine

@[simp] theorem byteSum_nil : byteSum [] = 0 := rfl

@[simp] theorem byteSum_cons (b : Byte) (s : Bytes) : byteSum (b :: s) = b.toNat + byteSum s := rfl

@[simp] theorem byteSum_append (s t : Bytes) : byteSum (s ++ t) = byteSum s + byteSum t := by simp [byteSum]

theorem checksum_toNat (s : Bytes) : (checksum s).toNat = (256 - byteSum s % 256) % 256 := by
  simp [checksum]

/-- The checksum makes the sum a multiple of 256 (R120). -/
theorem byteSum_add_checksum (s : Bytes) : (byteSum s + (checksum s).toNat) % 256 = 0 := by
  rw [checksum_toNat]
  omega

/-- Sealing a frame sets its last byte to the checksum of the bytes before it (R141). -/
@[simp] theorem sealFrame_append (s : Bytes) (b : Byte) : sealFrame (s ++ [b]) = s ++ [checksum s] := by
  simp [sealFrame, withByte, slice]

/-- A sealed frame satisfies the checksum invariant. -/
theorem byteSum_sealFrame {s : Bytes} (h : s ≠ []) : byteSum (sealFrame s) % 256 = 0 := by
  obtain ⟨t, b, rfl⟩ : ∃ t b, s = t ++ [b] := ⟨s.dropLast, s.getLast h, (List.dropLast_append_getLast h).symm⟩
  simpa using byteSum_add_checksum t

@[simp] theorem sealFrame_length (s : Bytes) : (sealFrame s).length = s.length := by
  simp [sealFrame, withByte]

/-- The assembled frame, byte by byte (R60, R140). -/
theorem assembleFrame_eq (c : ControlWord) (addr : Address) (src cmd : Byte) (payload : Bytes) :
    assembleFrame c addr src cmd payload =
      ([BitVec.ofNat 8 (c.toNat / 256), BitVec.ofNat 8 c.toNat, addr.networkId, addr.targetId, src, cmd] ++ payload) ++
        [0x00] := by
  simp [assembleFrame, memWrite, beBytes]

/-- DECODE's result on a frame written out byte by byte (R102). -/
theorem parseFrame_cons (b0 b1 net dest src code : Byte) (data : Bytes) :
    parseFrame (b0 :: b1 :: net :: dest :: src :: code :: data) =
      (let f := unpack (BitVec.ofNat 16 (b0.toNat * 256 + b1.toNat))
       .ok { link := f.link, repeaterReq := f.repeaterReq, length := f.length, ackReq := f.ackReq,
             txCount := f.txCount, txSeq := f.txSeq, networkId := net, destId := dest, srcId := src,
             msgId := code, data := data }) := by
  simp [parseFrame, memRead, memReadByte, slice, beValue]

/-- A digit's character has the digit's value (R13, R143). -/
@[simp] theorem hexVal_hexChar : ∀ d : Nibble, hexVal (hexChar d) = some d := by decide

/-- The two characters of a byte are both digits, and their values make the byte again. -/
theorem nibbles_append (b : Byte) : (b.extractLsb' 4 4 ++ b.extractLsb' 0 4 : BitVec 8) = b := by
  ext i hi
  simp only [BitVec.getElem_append, BitVec.getElem_extractLsb']
  split
  · simp [← BitVec.getLsbD_eq_getElem]
  · rename_i h
    simp only [← BitVec.getLsbD_eq_getElem]
    congr 1
    omega

@[simp] theorem hexOf_nil : hexOf [] = [] := rfl

@[simp] theorem hexOf_cons (b : Byte) (s : Bytes) :
    hexOf (b :: s) = hexChar (b.extractLsb' 4 4) :: hexChar (b.extractLsb' 0 4) :: hexOf s := rfl

@[simp] theorem hexOf_length (s : Bytes) : (hexOf s).length = 2 * s.length := by
  induction s with
  | nil => rfl
  | cons b s ih => simp [ih]; omega

/-- A string of digits, two for each byte, parses to the bytes of their values (R143). -/
theorem unhex_of_digits {text : Hex} {digits : List Nibble} (hlen : text.length % 2 = 0)
    (h : text.map hexVal = digits.map some) : unhex text = .ok (pairDigits digits) := by
  have hfind : text.findIdx? (fun c => (hexVal c).isNone) = none := by
    rw [List.findIdx?_eq_none_iff]
    intro c hc
    have : hexVal c ∈ digits.map some := h ▸ List.mem_map_of_mem hc
    obtain ⟨d, -, hd⟩ := List.mem_map.1 this
    simp [← hd]
  have hmap : text.filterMap hexVal = digits := by
    have := congrArg (List.filterMap id) h
    simpa [List.filterMap_map] using this
  simp [unhex, hlen, hfind, hmap]

/-- Parsing what was serialized gives the bytes again (R144). -/
@[simp] theorem unhex_hexOf (s : Bytes) : unhex (hexOf s) = .ok s := by
  have hpair : ∀ s : Bytes, pairDigits (s.flatMap fun b => [b.extractLsb' 4 4, b.extractLsb' 0 4]) = s := by
    intro s
    induction s with
    | nil => rfl
    | cons b s ih =>
      simp only [List.flatMap_cons, List.cons_append, List.nil_append, pairDigits, ih]
      rw [nibbles_append]
  have hdig : ∀ s : Bytes, (hexOf s).map hexVal =
      (s.flatMap fun b => [b.extractLsb' 4 4, b.extractLsb' 0 4]).map some := by
    intro s
    induction s with
    | nil => rfl
    | cons b s ih => simp [ih]
  rw [unhex_of_digits (by simp) (hdig s), hpair]

/-- What a parse can give: bytes, or a MalformedHex (R143). -/
theorem unhex_spec (text : Hex) : (∃ bs, unhex text = .ok bs) ∨ ∃ i, unhex text = .error (.malformedHex i) := by
  unfold unhex
  split
  · exact .inr ⟨_, rfl⟩
  · split
    · exact .inr ⟨_, rfl⟩
    · exact .inl ⟨_, rfl⟩

end Sys2Proof.Machine
end

