-- ==== Sys2Proof/Laws/State.lean ====
section
/-! SUPPORT. One lemma per field per update of State, so that no later proof unfolds a record update. -/

namespace Sys2Proof.Machine

@[simp] theorem State.respond_request (s : State) (r : Response) :
    (s.respond r).request = s.request := rfl

@[simp] theorem State.respond_response (s : State) (r : Response) :
    (s.respond r).response = some r := rfl

@[simp] theorem State.respond_txq (s : State) (r : Response) :
    (s.respond r).txq = s.txq := rfl

@[simp] theorem State.respond_reg (s : State) (r : Response) :
    (s.respond r).reg = s.reg := rfl

@[simp] theorem State.respond_hist (s : State) (r : Response) :
    (s.respond r).hist = s.hist := rfl

@[simp] theorem State.respond_txAnswers (s : State) (r : Response) :
    (s.respond r).txAnswers = s.txAnswers := rfl

@[simp] theorem State.respond_txDraws (s : State) (r : Response) :
    (s.respond r).txDraws = s.txDraws := rfl

@[simp] theorem State.respond_params (s : State) (r : Response) :
    (s.respond r).params = s.params := rfl

@[simp] theorem State.respond_pending (s : State) (r : Response) :
    (s.respond r).pending = s.pending := rfl

@[simp] theorem State.respond_handlers (s : State) (r : Response) (c : Byte) :
    (s.respond r).handlers c = s.handlers c := rfl

@[simp] theorem State.respond_nextTxAnswer (s : State) (r : Response) (net tgt : Byte) :
    (s.respond r).nextTxAnswer net tgt = s.nextTxAnswer net tgt := rfl

@[simp] theorem State.record_request (s : State) (e : Event) :
    (s.record e).request = s.request := rfl

@[simp] theorem State.record_response (s : State) (e : Event) :
    (s.record e).response = s.response := rfl

@[simp] theorem State.record_txq (s : State) (e : Event) :
    (s.record e).txq = s.txq := rfl

@[simp] theorem State.record_reg (s : State) (e : Event) :
    (s.record e).reg = s.reg := rfl

@[simp] theorem State.record_hist (s : State) (e : Event) :
    (s.record e).hist = s.hist ++ [e] := rfl

@[simp] theorem State.record_txAnswers (s : State) (e : Event) :
    (s.record e).txAnswers = s.txAnswers := rfl

@[simp] theorem State.record_txDraws (s : State) (e : Event) :
    (s.record e).txDraws = s.txDraws := rfl

@[simp] theorem State.record_params (s : State) (e : Event) :
    (s.record e).params = s.params := rfl

@[simp] theorem State.record_pending (s : State) (e : Event) :
    (s.record e).pending = s.pending := rfl

@[simp] theorem State.record_handlers (s : State) (e : Event) (c : Byte) :
    (s.record e).handlers c = s.handlers c := rfl

@[simp] theorem State.record_nextTxAnswer (s : State) (e : Event) (net tgt : Byte) :
    (s.record e).nextTxAnswer net tgt = s.nextTxAnswer net tgt := rfl

@[simp] theorem State.appendHandler_request (s : State) (code : Byte) (h : Handler) :
    (s.appendHandler code h).request = s.request := rfl

@[simp] theorem State.appendHandler_response (s : State) (code : Byte) (h : Handler) :
    (s.appendHandler code h).response = s.response := rfl

@[simp] theorem State.appendHandler_txq (s : State) (code : Byte) (h : Handler) :
    (s.appendHandler code h).txq = s.txq := rfl

@[simp] theorem State.appendHandler_reg (s : State) (code : Byte) (h : Handler) :
    (s.appendHandler code h).reg = Registry.put s.reg code (s.handlers code ++ [h]) := rfl

@[simp] theorem State.appendHandler_hist (s : State) (code : Byte) (h : Handler) :
    (s.appendHandler code h).hist = s.hist := rfl

@[simp] theorem State.appendHandler_txAnswers (s : State) (code : Byte) (h : Handler) :
    (s.appendHandler code h).txAnswers = s.txAnswers := rfl

@[simp] theorem State.appendHandler_txDraws (s : State) (code : Byte) (h : Handler) :
    (s.appendHandler code h).txDraws = s.txDraws := rfl

@[simp] theorem State.appendHandler_params (s : State) (code : Byte) (h : Handler) :
    (s.appendHandler code h).params = s.params := rfl

@[simp] theorem State.appendHandler_pending (s : State) (code : Byte) (h : Handler) :
    (s.appendHandler code h).pending = s.pending := rfl

@[simp] theorem State.appendHandler_nextTxAnswer (s : State) (code : Byte) (h : Handler) (net tgt : Byte) :
    (s.appendHandler code h).nextTxAnswer net tgt = s.nextTxAnswer net tgt := rfl

@[simp] theorem State.query_request (s : State) (networkId targetId : Byte) :
    (s.query networkId targetId).request = s.request := rfl

@[simp] theorem State.query_response (s : State) (networkId targetId : Byte) :
    (s.query networkId targetId).response = s.response := rfl

@[simp] theorem State.query_txq (s : State) (networkId targetId : Byte) :
    (s.query networkId targetId).txq = some ⟨networkId, targetId, s.nextTxAnswer networkId targetId⟩ := rfl

@[simp] theorem State.query_reg (s : State) (networkId targetId : Byte) :
    (s.query networkId targetId).reg = s.reg := rfl

@[simp] theorem State.query_hist (s : State) (networkId targetId : Byte) :
    (s.query networkId targetId).hist = s.hist ++ [.txQuery networkId targetId (s.nextTxAnswer networkId targetId)] := rfl

@[simp] theorem State.query_txAnswers (s : State) (networkId targetId : Byte) :
    (s.query networkId targetId).txAnswers = s.txAnswers.tail := rfl

@[simp] theorem State.query_txDraws (s : State) (networkId targetId : Byte) :
    (s.query networkId targetId).txDraws = s.txDraws + 1 := rfl

@[simp] theorem State.query_params (s : State) (networkId targetId : Byte) :
    (s.query networkId targetId).params = s.params := rfl

@[simp] theorem State.query_pending (s : State) (networkId targetId : Byte) :
    (s.query networkId targetId).pending = s.pending := rfl

@[simp] theorem State.query_handlers (s : State) (networkId targetId : Byte) (c : Byte) :
    (s.query networkId targetId).handlers c = s.handlers c := rfl

@[simp] theorem State.takeRequest_request (s : State) :
    s.takeRequest.request = none := rfl

@[simp] theorem State.takeRequest_response (s : State) :
    s.takeRequest.response = none := rfl

@[simp] theorem State.takeRequest_txq (s : State) :
    s.takeRequest.txq = none := rfl

@[simp] theorem State.takeRequest_reg (s : State) :
    s.takeRequest.reg = s.reg := rfl

@[simp] theorem State.takeRequest_hist (s : State) :
    s.takeRequest.hist = s.hist := rfl

@[simp] theorem State.takeRequest_txAnswers (s : State) :
    s.takeRequest.txAnswers = s.txAnswers := rfl

@[simp] theorem State.takeRequest_txDraws (s : State) :
    s.takeRequest.txDraws = s.txDraws := rfl

@[simp] theorem State.takeRequest_params (s : State) :
    s.takeRequest.params = s.params := rfl

@[simp] theorem State.takeRequest_pending (s : State) :
    s.takeRequest.pending = s.pending := rfl

@[simp] theorem State.takeRequest_handlers (s : State) (c : Byte) :
    s.takeRequest.handlers c = s.handlers c := rfl

@[simp] theorem State.takeRequest_nextTxAnswer (s : State) (net tgt : Byte) :
    s.takeRequest.nextTxAnswer net tgt = s.nextTxAnswer net tgt := rfl

@[simp] theorem State.present_request (s : State) (r : Request) (rest : List Request) :
    (s.present r rest).request = some r := rfl

@[simp] theorem State.present_response (s : State) (r : Request) (rest : List Request) :
    (s.present r rest).response = s.response := rfl

@[simp] theorem State.present_txq (s : State) (r : Request) (rest : List Request) :
    (s.present r rest).txq = s.txq := rfl

@[simp] theorem State.present_reg (s : State) (r : Request) (rest : List Request) :
    (s.present r rest).reg = s.reg := rfl

@[simp] theorem State.present_hist (s : State) (r : Request) (rest : List Request) :
    (s.present r rest).hist = s.hist := rfl

@[simp] theorem State.present_txAnswers (s : State) (r : Request) (rest : List Request) :
    (s.present r rest).txAnswers = s.txAnswers := rfl

@[simp] theorem State.present_txDraws (s : State) (r : Request) (rest : List Request) :
    (s.present r rest).txDraws = s.txDraws := rfl

@[simp] theorem State.present_params (s : State) (r : Request) (rest : List Request) :
    (s.present r rest).params = s.params := rfl

@[simp] theorem State.present_pending (s : State) (r : Request) (rest : List Request) :
    (s.present r rest).pending = rest := rfl

@[simp] theorem State.present_handlers (s : State) (r : Request) (rest : List Request) (c : Byte) :
    (s.present r rest).handlers c = s.handlers c := rfl

@[simp] theorem State.present_nextTxAnswer (s : State) (r : Request) (rest : List Request) (net tgt : Byte) :
    (s.present r rest).nextTxAnswer net tgt = s.nextTxAnswer net tgt := rfl

@[simp] theorem State.blockReset_request (s : State) :
    s.blockReset.request = none := rfl

@[simp] theorem State.blockReset_response (s : State) :
    s.blockReset.response = none := rfl

@[simp] theorem State.blockReset_txq (s : State) :
    s.blockReset.txq = none := rfl

@[simp] theorem State.blockReset_reg (s : State) :
    s.blockReset.reg = [] := rfl

@[simp] theorem State.blockReset_hist (s : State) :
    s.blockReset.hist = [] := rfl

@[simp] theorem State.blockReset_txAnswers (s : State) :
    s.blockReset.txAnswers = s.txAnswers := rfl

@[simp] theorem State.blockReset_txDraws (s : State) :
    s.blockReset.txDraws = s.txDraws := rfl

@[simp] theorem State.blockReset_params (s : State) :
    s.blockReset.params = s.params := rfl

@[simp] theorem State.blockReset_pending (s : State) :
    s.blockReset.pending = s.pending := rfl

@[simp] theorem State.blockReset_nextTxAnswer (s : State) (net tgt : Byte) :
    s.blockReset.nextTxAnswer net tgt = s.nextTxAnswer net tgt := rfl

/-- The state `respond` gives, as the record update it is. -/
theorem State.respond_def (s : State) (r : Response) : s.respond r = { s with response := some r } := rfl

/-- A second response replaces the first. -/
@[simp] theorem State.respond_respond (s : State) (r q : Response) : (s.respond r).respond q = s.respond q := rfl

@[simp] theorem State.resetAfterQuery_request (s : State) (net tgt : Byte) :
    (s.resetAfterQuery net tgt).request = none := rfl

@[simp] theorem State.resetAfterQuery_response (s : State) (net tgt : Byte) :
    (s.resetAfterQuery net tgt).response = none := rfl

@[simp] theorem State.resetAfterQuery_txq (s : State) (net tgt : Byte) :
    (s.resetAfterQuery net tgt).txq = none := rfl

@[simp] theorem State.resetAfterQuery_reg (s : State) (net tgt : Byte) :
    (s.resetAfterQuery net tgt).reg = [] := rfl

@[simp] theorem State.resetAfterQuery_txAnswers (s : State) (net tgt : Byte) :
    (s.resetAfterQuery net tgt).txAnswers = s.txAnswers.tail := rfl

@[simp] theorem State.resetAfterQuery_txDraws (s : State) (net tgt : Byte) :
    (s.resetAfterQuery net tgt).txDraws = s.txDraws + 1 := rfl

@[simp] theorem State.resetAfterQuery_params (s : State) (net tgt : Byte) :
    (s.resetAfterQuery net tgt).params = s.params := rfl

@[simp] theorem State.resetAfterQuery_pending (s : State) (net tgt : Byte) :
    (s.resetAfterQuery net tgt).pending = s.pending := rfl

@[simp] theorem State.resetAfterQuery_hist (s : State) (net tgt : Byte) :
    (s.resetAfterQuery net tgt).hist = [.txQuery net tgt (s.nextTxAnswer net tgt)] := rfl

end Sys2Proof.Machine
end

