-- ==== Sys2Proof/Laws/Registry.lean ====
section
/-! SUPPORT. The registry: reading after writing, and that writing keeps the canonical form (10_state.md R25). -/

namespace Sys2Proof.Machine

@[simp] theorem Registry.get_put_same (r : Registry) (c : Byte) (hs : List Handler) :
    Registry.get (Registry.put r c hs) c = hs := by
  induction r with
  | nil => simp [Registry.put, Registry.get]
  | cons e rest ih =>
    obtain ⟨k, ks⟩ := e
    unfold Registry.put
    split
    · simp [Registry.get]
    · split
      · simp [Registry.get]
      · rename_i hk _
        simp [Registry.get, Ne.symm hk, ih]

theorem Registry.get_put_other (r : Registry) {c d : Byte} (hs : List Handler) (h : d ≠ c) :
    Registry.get (Registry.put r c hs) d = Registry.get r d := by
  induction r with
  | nil => simp [Registry.put, Registry.get, Ne.symm h]
  | cons e rest ih =>
    obtain ⟨k, ks⟩ := e
    unfold Registry.put
    split
    · rename_i hk
      subst hk
      simp [Registry.get, Ne.symm h]
    · split
      · simp [Registry.get, Ne.symm h]
      · simp only [Registry.get, ih]

/-- The entry of a code below every listed code is empty. -/
theorem Registry.get_eq_nil_of_lt (r : Registry) (c : Byte) (h : ∀ e ∈ r, c.toNat < e.1.toNat) :
    Registry.get r c = [] := by
  induction r with
  | nil => rfl
  | cons e rest ih =>
    obtain ⟨k, ks⟩ := e
    have hk : k ≠ c := by
      rintro rfl
      exact absurd (h (k, ks) (by simp)) (by simp)
    simp only [Registry.get, if_neg hk]
    exact ih fun e he => h e (by simp [he])

/-- What a write can put into the list of entries: the entry written, or one that was there. -/
theorem Registry.mem_put {r : Registry} {c : Byte} {hs : List Handler} {e : Byte × List Handler}
    (h : e ∈ Registry.put r c hs) : e = (c, hs) ∨ e ∈ r := by
  induction r with
  | nil => simpa [Registry.put] using h
  | cons a rest ih =>
    obtain ⟨k, ks⟩ := a
    unfold Registry.put at h
    split at h
    · rcases List.mem_cons.1 h with h | h
      · exact .inl h
      · exact .inr (by simp [h])
    · split at h
      · rcases List.mem_cons.1 h with h | h
        · exact .inl h
        · exact .inr h
      · rcases List.mem_cons.1 h with h | h
        · exact .inr (by simp [h])
        · exact (ih h).imp_right fun h => by simp [h]

/-- The canonical form, as a proposition. -/
theorem Registry.wf_iff (r : Registry) : Registry.wf r = true ↔
    r.Pairwise (fun a b => a.1.toNat < b.1.toNat) ∧ ∀ e ∈ r, e.2 ≠ [] ∧ e.2.Nodup := by
  simp [Registry.wf]

/-- Writing a non-empty entry without repetition keeps the canonical form. -/
theorem Registry.put_wf {r : Registry} (c : Byte) {hs : List Handler} (hr : Registry.wf r = true) (hne : hs ≠ [])
    (hnd : hs.Nodup) : Registry.wf (Registry.put r c hs) = true := by
  rw [Registry.wf_iff] at hr ⊢
  refine ⟨?_, fun e he => ?_⟩
  · obtain ⟨hp, -⟩ := hr
    induction r with
    | nil => simp [Registry.put]
    | cons a rest ih =>
      obtain ⟨k, ks⟩ := a
      rw [List.pairwise_cons] at hp
      unfold Registry.put
      split
      · rename_i hk
        subst hk
        exact List.pairwise_cons.2 ⟨fun e he => hp.1 e he, hp.2⟩
      · split
        · rename_i hlt
          refine List.pairwise_cons.2 ⟨fun e he => ?_, List.pairwise_cons.2 hp⟩
          rcases List.mem_cons.1 he with rfl | he
          · exact hlt
          · exact hlt.trans (hp.1 e he)
        · rename_i hk hlt
          refine List.pairwise_cons.2 ⟨fun e he => ?_, ih hp.2⟩
          rcases Registry.mem_put he with rfl | he
          · have : k.toNat ≠ c.toNat := fun h => hk (BitVec.eq_of_toNat_eq h.symm)
            show k.toNat < c.toNat
            omega
          · exact hp.1 e he
  · rcases Registry.mem_put he with rfl | he
    · exact ⟨hne, hnd⟩
    · exact hr.2 e he

/-- In canonical form the entry of every code has no repetition (R25). -/
theorem Registry.get_nodup {r : Registry} (hr : Registry.wf r = true) (c : Byte) : (Registry.get r c).Nodup := by
  rw [Registry.wf_iff] at hr
  obtain ⟨-, h⟩ := hr
  induction r with
  | nil => simp [Registry.get]
  | cons a rest ih =>
    obtain ⟨k, ks⟩ := a
    unfold Registry.get
    split
    · exact (h (k, ks) (by simp)).2
    · exact ih fun e he => h e (by simp [he])

/-- Appending a handler gives its code one handler more, at the end. -/
@[simp] theorem State.appendHandler_handlers_same (s : State) (code : Byte) (h : Handler) :
    (s.appendHandler code h).handlers code = s.handlers code ++ [h] := by
  simp [State.handlers]

/-- Appending a handler leaves every other code's entry alone. -/
theorem State.appendHandler_handlers_other (s : State) {code c : Byte} (h : Handler) (hc : c ≠ code) :
    (s.appendHandler code h).handlers c = s.handlers c := by
  simp [State.handlers, Registry.get_put_other _ _ hc]

end Sys2Proof.Machine
end

