-- ==== Sys2Proof/Laws/Ops.lean ====
section
/-! SUPPORT. The shared operations: what each can do, said once. -/

namespace Sys2Proof.Machine

@[simp] theorem answer_ok (s : State) (r : Result) : answer s (.ok r) = .next (s.respond (.ok r none)) := rfl

@[simp] theorem answer_error (s : State) (f : BlockFault) : answer s (.error f) = .next (s.respond (.fault f)) := rfl

@[simp] theorem complete_eq (s : State) (r : Result) : complete r s = .next (s.respond (.ok r none)) := rfl

@[simp] theorem raiseFault_eq (s : State) (f : BlockFault) : raiseFault f s = .next (s.respond (.fault f)) := rfl

/-- An answer is a response on the port and nothing else. -/
theorem answer_spec (s : State) (e : Except BlockFault Result) :
    (∃ r, e = .ok r ∧ answer s e = .next (s.respond (.ok r none))) ∨
      (∃ f, e = .error f ∧ answer s e = .next (s.respond (.fault f))) := by
  cases e with
  | ok r => exact .inl ⟨r, rfl, rfl⟩
  | error f => exact .inr ⟨f, rfl, rfl⟩

@[simp] theorem checkAddress_ok {addr : Address} (h : addr.isLink ≠ addr.isDevice) :
    checkAddress addr = .ok () := by simp [checkAddress, h]

@[simp] theorem checkAddress_error {addr : Address} (h : addr.isLink = addr.isDevice) :
    checkAddress addr = .error (.badAddress addr.isLink addr.isDevice) := by simp [checkAddress, h]

theorem inRange_iff (lo hi v : Int) : inRange lo hi v = true ↔ lo ≤ v ∧ v ≤ hi := by simp [inRange]

theorem checkContract_ok {lo hi v : Int} (field : ContractField) (h : lo ≤ v ∧ v ≤ hi) :
    checkContract field lo hi v = .ok () := by simp [checkContract, (inRange_iff lo hi v).2 h]

theorem checkContract_error {lo hi v : Int} (field : ContractField) (h : ¬(lo ≤ v ∧ v ≤ hi)) :
    checkContract field lo hi v = .error (.contractViolation field v) := by
  simp [checkContract, inRange_iff, h]

theorem checkArg_ok {lo hi v : Int} (field : ArgField) (h : lo ≤ v ∧ v ≤ hi) :
    checkArg field lo hi v = .ok () := by simp [checkArg, (inRange_iff lo hi v).2 h]

theorem checkArg_error {lo hi v : Int} (field : ArgField) (h : ¬(lo ≤ v ∧ v ≤ hi)) :
    checkArg field lo hi v = .error (.argRange field (some v)) := by
  simp [checkArg, inRange_iff, h]

theorem checkByte_ok {v : Int} (field : ContractField) (h : 0 ≤ v ∧ v ≤ 255) :
    checkByte field v = .ok (BitVec.ofInt 8 v) := by simp [checkByte, checkContract_ok field h]

theorem checkByte_error {v : Int} (field : ContractField) (h : ¬(0 ≤ v ∧ v ≤ 255)) :
    checkByte field v = .error (.contractViolation field v) := by simp [checkByte, checkContract_error field h]

theorem checkWord_ok {v : Int} (h : 0 ≤ v ∧ v ≤ 0xFFFF) : checkWord v = .ok (BitVec.ofInt 16 v) := by
  simp [checkWord, checkContract_ok .cw h]

theorem checkWord_error {v : Int} (h : ¬(0 ≤ v ∧ v ≤ 0xFFFF)) :
    checkWord v = .error (.contractViolation .cw v) := by simp [checkWord, checkContract_error .cw h]

/-- A step that finds a request serves it. -/
theorem step_of_request {s : State} {r : Request} (h : s.request = some r) :
    step s = serveRequest r s.takeRequest := by simp [step, h]

/-- A step that finds no request is the host's turn. -/
theorem step_of_idle {s : State} (h : s.request = none) : step s = hostTurn s := by simp [step, h]

/-- The next step of `withFetchWord` serves the table's request. -/
theorem step_withFetchWord (s : State) (nbits w : Nat) :
    step (s.withFetchWord nbits w) = serveRequest (tableRequest (w % 2 ^ nbits)) (s.withFetchWord nbits w).takeRequest :=
  rfl

end Sys2Proof.Machine
end

