-- ==== Sys2Proof/Laws/CwBits.lean ====
section
/-! SUPPORT. The control word's fields as numbers (30_encoding.md R64). -/

namespace Sys2Proof.Machine

/-- A field of a control word as a number: the word divided and reduced. -/
theorem field_toNat (c : ControlWord) (lo w : Nat) : (c.extractLsb' lo w).toNat = c.toNat / 2 ^ lo % 2 ^ w := by
  simp [BitVec.extractLsb'_toNat, Nat.shiftRight_eq_div_pow]

/-- The link bit as a number. -/
theorem link_eq (c : ControlWord) : c.getLsbD 15 = decide (c.toNat / 2 ^ 15 % 2 = 1) := by
  simp [BitVec.getLsbD, Nat.testBit, Nat.shiftRight_eq_div_pow, Nat.one_and_eq_mod_two, beq_eq_decide]

/-- All fields of a control word as numbers. -/
theorem unpack_spec (c : ControlWord) :
    (unpack c).link = decide (c.toNat / 2 ^ 15 % 2 = 1) ∧ (unpack c).repeaterReq.toNat = c.toNat / 2 ^ 13 % 4 ∧
      (unpack c).length.toNat = c.toNat / 2 ^ 8 % 32 ∧ (unpack c).ackReq.toNat = c.toNat / 2 ^ 4 % 8 ∧
      (unpack c).txCount.toNat = c.toNat / 2 ^ 2 % 4 ∧ (unpack c).txSeq.toNat = c.toNat % 4 := by
  refine ⟨link_eq c, field_toNat c 13 2, field_toNat c 8 5, field_toNat c 4 3, field_toNat c 2 2, ?_⟩
  have h := field_toNat c 0 2
  rwa [pow_zero, Nat.div_one] at h

/-- A natural-number operand in 0..0xFFFF is taken as that word. -/
theorem checkWord_nat {n : Nat} (h : n ≤ 0xFFFF) : checkWord (n : Int) = .ok (BitVec.ofNat 16 n) := by
  rw [checkWord_ok (by omega)]
  simp

/-- A natural-number operand in 0..255 is taken as that byte. -/
theorem checkByte_nat {n : Nat} (field : ContractField) (h : n ≤ 255) :
    checkByte field (n : Int) = .ok (BitVec.ofNat 8 n) := by
  rw [checkByte_ok field (by omega)]
  simp

/-- The word BUILD_CW packs, as a sum of its fields (R132). -/
theorem packWord_toNat (link : Bool) {rep ack v : Nat} (hr : rep ≤ 3) (ha : ack ≤ 7) (h1 : 1 ≤ v) (h4 : v ≤ 4) :
    (packWord link (rep : Int) (ack : Int) (v : Int)).toNat =
      (if link then 2 ^ 15 else 0) + rep * 2 ^ 13 + ack * 2 ^ 4 + (v - 1) * 2 ^ 2 := by
  have key : ∀ (l : Bool) (r : Fin 4) (a : Fin 8) (w : Fin 4),
      (packWord l ((r.1 : Nat) : Int) ((a.1 : Nat) : Int) ((w.1 + 1 : Nat) : Int)).toNat =
        (if l then 2 ^ 15 else 0) + r.1 * 2 ^ 13 + a.1 * 2 ^ 4 + w.1 * 2 ^ 2 := by decide +kernel
  have := key link ⟨rep, by omega⟩ ⟨ack, by omega⟩ ⟨v - 1, by omega⟩
  simpa [Nat.sub_add_cancel h1] using this

/-- The high and the low byte of a number's bitwise or with a multiple of 256. -/
theorem or_mul_256 (c t : Nat) : (c ||| t * 256) / 256 = c / 256 ||| t ∧ (c ||| t * 256) % 256 = c % 256 := by
  constructor
  · have := Nat.or_div_two_pow (a := c) (b := t * 256) (n := 8)
    simpa using this
  · have := Nat.or_mod_two_pow (a := c) (b := t * 256) (n := 8)
    simpa using this

/-- The merged length in its field: REPLACE clears the field first, OR keeps what was there (R138). -/
theorem mergeLen_toNat (mode : LenMerge) (c : ControlWord) {total : Nat} (ht : total ≤ 31) :
    (mergeLen mode c total).toNat = (match mode with
      | .replace => c.toNat - c.toNat / 2 ^ 8 % 2 ^ 5 * 2 ^ 8 + total * 2 ^ 8
      | .or => c.toNat ||| total * 2 ^ 8) := by
  have hc := c.isLt
  have hs : (BitVec.ofNat 16 total <<< 8).toNat = total * 256 := by
    simp [Nat.shiftLeft_eq]
    omega
  cases mode with
  | or => simp only [mergeLen, BitVec.toNat_or, hs]; norm_num
  | replace =>
    simp only [mergeLen, BitVec.toNat_or, BitVec.toNat_and, hs]
    rw [show (0xE0FF#16).toNat = 0xE0FF from rfl]
    obtain ⟨h1, h2⟩ := or_mul_256 (c.toNat &&& 0xE0FF) total
    have h3 : (c.toNat &&& 0xE0FF) / 256 = c.toNat / 256 &&& 0xE0 := by
      simpa using Nat.and_div_two_pow (a := c.toNat) (b := 0xE0FF) (n := 8)
    have h4 : (c.toNat &&& 0xE0FF) % 256 = c.toNat % 256 := by
      rw [show 256 = 2 ^ 8 from rfl, Nat.and_mod_two_pow, show 0xE0FF % 2 ^ 8 = 2 ^ 8 - 1 from rfl,
        Nat.and_two_pow_sub_one_eq_mod, Nat.mod_mod]
    have key : ∀ (h : Fin 256) (t : Fin 32), (h.1 &&& 0xE0) ||| t.1 = h.1 - h.1 % 32 + t.1 := by decide +kernel
    have h5 := key ⟨c.toNat / 256, by omega⟩ ⟨total, by omega⟩
    simp only at h5
    rw [h3, h5] at h1
    rw [h4] at h2
    clear h3 h4 h5 key hs
    norm_num at h1 h2 ⊢
    omega

/-- `merge_len` under REPLACE is R65's insertion of the length field. -/
theorem mergeLen_replace_eq (c : ControlWord) (total : Nat) : mergeLen .replace c total = insertField c 8 5 total := rfl

/-- INC_TX's rewrite of the low byte is R65's insertion of the tx_count field into the control word. -/
theorem withLowByteTxCount_eq (c : ControlWord) (v : Fin 4) :
    withLowByteTxCount (c.extractLsb' 0 8) v = (insertField c 2 2 v).extractLsb' 0 8 := by
  have h : ∀ v : Fin 4, ((BitVec.ofNat 16 v <<< 2 : BitVec 16)).extractLsb' 0 8 = BitVec.ofNat 8 v <<< 2 := by decide
  have m : (~~~(BitVec.ofNat 16 (2 ^ 2 - 1) <<< 2 : BitVec 16)).extractLsb' 0 8 = 0xF3#8 := by decide
  simp only [withLowByteTxCount, insertField, BitVec.extractLsb'_or, BitVec.extractLsb'_and, h, m]

end Sys2Proof.Machine
end

