-- ==== Sys2Proof/Laws/Encoder.lean ====
section
/-! SUPPORT. The encoders: what each computation can give, and which state it leaves, said once. -/

namespace Sys2Proof.Machine

/-- BUILD_CW's checks pass exactly on a valid address with rep in 0..3 and ack in 0..7 (R130, R131). -/
theorem buildCwChecks_ok {addr : Address} {rep ack : Int} (ha : addr.isLink ≠ addr.isDevice)
    (hr : 0 ≤ rep ∧ rep ≤ 3) (hk : 0 ≤ ack ∧ ack ≤ 7) : buildCwChecks addr rep ack = .ok () := by
  simp [buildCwChecks, ha, checkContract_ok .repeaterReq hr, checkContract_ok .ackReq hk]

/-- A fault of BUILD_CW's checks names the address, rep or ack (R204). -/
theorem buildCwChecks_error {addr : Address} {rep ack : Int} {f : BlockFault}
    (h : buildCwChecks addr rep ack = .error f) :
    (addr.isLink = addr.isDevice ∧ f = .badAddress addr.isLink addr.isDevice) ∨
      (¬(0 ≤ rep ∧ rep ≤ 3) ∧ f = .contractViolation .repeaterReq rep) ∨
        (¬(0 ≤ ack ∧ ack ≤ 7) ∧ f = .contractViolation .ackReq ack) := by
  unfold buildCwChecks at h
  by_cases ha : addr.isLink = addr.isDevice
  · simp [ha] at h
    exact .inl ⟨ha, by simp [← h, ha]⟩
  · by_cases hr : 0 ≤ rep ∧ rep ≤ 3
    · by_cases hk : 0 ≤ ack ∧ ack ≤ 7
      · simp [ha, checkContract_ok .repeaterReq hr, checkContract_ok .ackReq hk] at h
      · simp [ha, checkContract_ok .repeaterReq hr, checkContract_error .ackReq hk] at h
        exact .inr (.inr ⟨hk, h.symm⟩)
    · simp [ha, checkContract_error .repeaterReq hr] at h
      exact .inr (.inl ⟨hr, h.symm⟩)

/-- Everything BUILD_CW's computation can do (R130): a fault before the query, in the state as it was; a fault of the
answer after the query; the word, after the query. -/
theorem buildWord_spec (addr : Address) (rep ack : Int) (s : State) :
    (∃ f, buildCwChecks addr rep ack = .error f ∧ buildWord addr rep ack s = (s, .error f)) ∨
      (buildCwChecks addr rep ack = .ok () ∧
        ¬(1 ≤ s.nextTxAnswer addr.networkId addr.targetId ∧ s.nextTxAnswer addr.networkId addr.targetId ≤ 4) ∧
        buildWord addr rep ack s = (s.query addr.networkId addr.targetId,
          .error (.contractViolation .txCount (s.nextTxAnswer addr.networkId addr.targetId)))) ∨
      (buildCwChecks addr rep ack = .ok () ∧
        (1 ≤ s.nextTxAnswer addr.networkId addr.targetId ∧ s.nextTxAnswer addr.networkId addr.targetId ≤ 4) ∧
        buildWord addr rep ack s = (s.query addr.networkId addr.targetId,
          .ok (packWord addr.isLink rep ack (s.nextTxAnswer addr.networkId addr.targetId)))) := by
  unfold buildWord
  cases hc : buildCwChecks addr rep ack with
  | error f => exact .inl ⟨f, rfl, rfl⟩
  | ok u =>
    by_cases hv : 1 ≤ s.nextTxAnswer addr.networkId addr.targetId ∧ s.nextTxAnswer addr.networkId addr.targetId ≤ 4
    · exact .inr (.inr ⟨rfl, hv, by simp [checkContract_ok .txCount hv]⟩)
    · exact .inr (.inl ⟨rfl, hv, by simp [checkContract_error .txCount hv]⟩)

/-- ENCODE's operand checks pass exactly on a valid address with src and cmd bytes (R135). -/
theorem encodeChecks_ok {addr : Address} {src cmd : Int} (ha : addr.isLink ≠ addr.isDevice)
    (hs : 0 ≤ src ∧ src ≤ 255) (hc : 0 ≤ cmd ∧ cmd ≤ 255) :
    encodeChecks addr src cmd = .ok (BitVec.ofInt 8 src, BitVec.ofInt 8 cmd) := by
  simp [encodeChecks, ha, checkByte_ok .src hs, checkByte_ok .cmd hc]

/-- What ENCODE's operand checks can give (R204). -/
theorem encodeChecks_spec (addr : Address) (src cmd : Int) :
    (addr.isLink = addr.isDevice ∧ encodeChecks addr src cmd = .error (.badAddress addr.isLink addr.isDevice)) ∨
      (addr.isLink ≠ addr.isDevice ∧ ¬(0 ≤ src ∧ src ≤ 255) ∧
        encodeChecks addr src cmd = .error (.contractViolation .src src)) ∨
      (addr.isLink ≠ addr.isDevice ∧ (0 ≤ src ∧ src ≤ 255) ∧ ¬(0 ≤ cmd ∧ cmd ≤ 255) ∧
        encodeChecks addr src cmd = .error (.contractViolation .cmd cmd)) ∨
      (addr.isLink ≠ addr.isDevice ∧ (0 ≤ src ∧ src ≤ 255) ∧ (0 ≤ cmd ∧ cmd ≤ 255) ∧
        encodeChecks addr src cmd = .ok (BitVec.ofInt 8 src, BitVec.ofInt 8 cmd)) := by
  by_cases ha : addr.isLink = addr.isDevice
  · exact .inl ⟨ha, by simp [encodeChecks, ha]⟩
  · by_cases hs : 0 ≤ src ∧ src ≤ 255
    · by_cases hc : 0 ≤ cmd ∧ cmd ≤ 255
      · exact .inr (.inr (.inr ⟨ha, hs, hc, encodeChecks_ok ha hs hc⟩))
      · exact .inr (.inr (.inl ⟨ha, hs, hc, by simp [encodeChecks, ha, checkByte_ok .src hs, checkByte_error .cmd hc]⟩))
    · exact .inr (.inl ⟨ha, hs, by simp [encodeChecks, ha, checkByte_error .src hs]⟩)

/-- The word ENCODE starts from leaves the state as it was or after one query, and an `auto` word that is given is one
after a query (R135, R136). -/
theorem encodeWord_state (cw : CwOperand) (addr : Address) (s : State) :
    (encodeWord cw addr s).1 = s ∨ (cw = .auto ∧ (encodeWord cw addr s).1 = s.query addr.networkId addr.targetId) := by
  cases cw with
  | word v => exact .inl rfl
  | auto =>
    rcases buildWord_spec addr 0 0 s with ⟨f, -, h⟩ | ⟨-, -, h⟩ | ⟨-, -, h⟩ <;> simp [encodeWord, h]

/-- ENCODE's computation leaves the state as it was or after one query (R203). -/
theorem encodeFrame_state (cw : CwOperand) (addr : Address) (src cmd : Int) (payload : Bytes) (s : State) :
    (encodeFrame cw addr src cmd payload s).1 = s ∨
      (cw = .auto ∧ (encodeFrame cw addr src cmd payload s).1 = s.query addr.networkId addr.targetId) := by
  have hw := encodeWord_state cw addr s
  unfold encodeFrame
  split
  · exact .inl rfl
  · split
    · rename_i t f ht
      rw [ht] at hw
      exact hw
    · rename_i t c ht
      rw [ht] at hw
      exact hw

/-- A command-specific encoder leaves the state as it was or after one query. -/
theorem encodeCommand_state (name : Command) (addr : Address) (src : Int) (payload : Except BlockFault Bytes)
    (s : State) :
    (encodeCommand name addr src payload s).1 = s ∨
      (encodeCommand name addr src payload s).1 = s.query addr.networkId addr.targetId := by
  cases payload with
  | error f => exact .inl rfl
  | ok p => exact (encodeFrame_state _ _ _ _ _ _).imp_right And.right

/-- A frame that ENCODE finishes is the hex string of a sealed frame of at most 31 bytes (R139, R141). -/
theorem finishFrame_ok {mode : LenMerge} {c : ControlWord} {addr : Address} {src cmd : Byte} {payload : Bytes}
    (h : payload.length ≤ 24) :
    finishFrame mode c addr src cmd payload =
      .ok (hexOf (sealFrame (assembleFrame (mergeLen mode c (7 + payload.length)) addr src cmd payload))) := by
  have : ¬ 31 < 7 + payload.length := by omega
  simp [finishFrame, this]

theorem finishFrame_error {mode : LenMerge} {c : ControlWord} {addr : Address} {src cmd : Byte} {payload : Bytes}
    (h : 24 < payload.length) :
    finishFrame mode c addr src cmd payload = .error (.frameTooLong (7 + payload.length)) := by
  have : 31 < 7 + payload.length := by omega
  simp [finishFrame, this]

end Sys2Proof.Machine
end

