-- ==== Sys2Proof/Laws/PerInstr.lean ====
section
/-! SUPPORT. Per operation: the OP byte the encoder writes is a row of the opcode table, and the decoder reads that row
as an operation of the same OP code (30_encoding.md R80). -/

namespace Sys2Proof.Laws.TableRow

/-- The operation's OP byte, as a table word with zero operands, decodes to an operation of the same OP code. -/
def Statement (i : Instr) : Prop :=
  ∃ j : Instr, decodeTableWord 8 (opCode i).toNat = some j ∧ opCode j = opCode i

theorem unpackCw (cw : Int) : Statement (.unpackCw cw) := ⟨_, rfl, rfl⟩

theorem decode (frame : Bytes) : Statement (.decode frame) := ⟨_, rfl, rfl⟩

theorem register (code : Byte) (h : Handler) : Statement (.register code h) := ⟨_, rfl, rfl⟩

theorem dispatch (msg : DecodedMessage) : Statement (.dispatch msg) := ⟨_, rfl, rfl⟩

theorem cksumGen (frame : Bytes) : Statement (.cksumGen frame) := ⟨_, rfl, rfl⟩

theorem cksumVerify (frame : Bytes) : Statement (.cksumVerify frame) := ⟨_, rfl, rfl⟩

theorem buildCw (addr : Address) (rep ack : Int) : Statement (.buildCw addr rep ack) := ⟨_, rfl, rfl⟩

theorem encode (cw : CwOperand) (addr : Address) (src cmd : Int) (payload : Bytes) : Statement (.encode cw addr src cmd payload) := ⟨_, rfl, rfl⟩

theorem hexSerialize (frame : Bytes) : Statement (.hexSerialize frame) := ⟨_, rfl, rfl⟩

theorem hexParse (text : Hex) : Statement (.hexParse text) := ⟨_, rfl, rfl⟩

theorem levelPayload (addr : Address) (level rate : Int) : Statement (.levelPayload addr level rate) := ⟨_, rfl, rfl⟩

theorem encActivate (addr : Address) (src : Int) : Statement (.encActivate addr src) := ⟨_, rfl, rfl⟩

theorem encDeactivate (addr : Address) (src : Int) : Statement (.encDeactivate addr src) := ⟨_, rfl, rfl⟩

theorem encGoto (addr : Address) (src level rate : Int) : Statement (.encGoto addr src level rate) := ⟨_, rfl, rfl⟩

theorem encFadeStart (addr : Address) (src level rate : Int) : Statement (.encFadeStart addr src level rate) := ⟨_, rfl, rfl⟩

theorem encFadeStop (addr : Address) (src : Int) : Statement (.encFadeStop addr src) := ⟨_, rfl, rfl⟩

theorem encBlink (addr : Address) (src rate : Int) : Statement (.encBlink addr src rate) := ⟨_, rfl, rfl⟩

theorem encReportState (addr : Address) (src : Int) : Statement (.encReportState addr src) := ⟨_, rfl, rfl⟩

theorem incTx (text : Hex) : Statement (.incTx text) := ⟨_, rfl, rfl⟩

end Sys2Proof.Laws.TableRow
end

