-- ==== Sys2Proof/Machine/Script.lean ====
section
/-! DEFINITION. The request-script notation of 30_encoding.md R85 and the running of a script by a host (R86): a line's
text is cut into tokens, read as an operation with operands, its `%name` operands are replaced by earlier results, and
the request it stands for is issued. It is the host's notation and has no effect on the block (D25). -/

namespace Sys2Proof.Machine

/-- A name in a script, without its percent sign. -/
abbrev Name := List Char

/-- A token of a line. -/
inductive Token where
  | word (cs : List Char)
  | quoted (cs : List Char)
  | mark (c : Char)
  deriving DecidableEq, Repr

/-- An operand as it is written (R85). -/
inductive Value where
  | int (v : Int)
  | bytes (bs : Bytes)
  | text (t : Hex)
  | auto
  | command (name : Command)
  | addr (a : Address)
  | handler (h : Handler)
  | ref (name : Name)
  deriving DecidableEq, Repr

/-- A line of a script: the name its result is kept under, the mnemonic, and the operands, each with its key where it
is written `key=value`. -/
structure Line where
  dest     : Option Name
  mnemonic : List Char
  operands : List (Option (List Char) × Value)
  deriving DecidableEq, Repr

/-- The operands of R82 by name. -/
inductive OperandName where
  | cw
  | encCw
  | frame
  | code
  | h
  | msg
  | addr
  | rep
  | ack
  | src
  | cmd
  | payload
  | text
  | level
  | rate
  deriving DecidableEq, Repr

/-- The key an operand is written with (R82). -/
def OperandName.key : OperandName → List Char
  | .cw | .encCw => "cw".toList
  | .frame => "frame".toList
  | .code => "code".toList
  | .h => "h".toList
  | .msg => "msg".toList
  | .addr => "addr".toList
  | .rep => "rep".toList
  | .ack => "ack".toList
  | .src => "src".toList
  | .cmd => "cmd".toList
  | .payload => "payload".toList
  | .text => "text".toList
  | .level => "level".toList
  | .rate => "rate".toList

/-- The OP code of a mnemonic and its operands in the order of R82. -/
def scriptTable : List (List Char × Byte × List OperandName) :=
  [("UNPACK_CW".toList, 0x00, [.cw]), ("DECODE".toList, 0x01, [.frame]), ("REGISTER".toList, 0x02, [.code, .h]),
   ("DISPATCH".toList, 0x03, [.msg]), ("CKSUM_GEN".toList, 0x04, [.frame]), ("CKSUM_VERIFY".toList, 0x05, [.frame]),
   ("BUILD_CW".toList, 0x06, [.addr, .rep, .ack]), ("ENCODE".toList, 0x07, [.encCw, .addr, .src, .cmd, .payload]),
   ("HEX_SERIALIZE".toList, 0x08, [.frame]), ("HEX_PARSE".toList, 0x09, [.text])] ++
  [("LEVEL_PAYLOAD".toList, 0x0A, [.addr, .level, .rate]), ("ENC_ACTIVATE".toList, 0x0B, [.addr, .src]),
   ("ENC_DEACTIVATE".toList, 0x0C, [.addr, .src]), ("ENC_GOTO".toList, 0x0D, [.addr, .src, .level, .rate]),
   ("ENC_FADE_START".toList, 0x0E, [.addr, .src, .level, .rate]), ("ENC_FADE_STOP".toList, 0x0F, [.addr, .src]),
   ("ENC_BLINK".toList, 0x10, [.addr, .src, .rate]), ("ENC_REPORT_STATE".toList, 0x11, [.addr, .src]),
   ("INC_TX".toList, 0x12, [.text])]

/-- The command names of R72. -/
def commandTable : List (List Char × Command) :=
  [("ACTIVATE".toList, .activate), ("DEACTIVATE".toList, .deactivate), ("GOTO".toList, .goto),
   ("FADE_START".toList, .fadeStart), ("FADE_STOP".toList, .fadeStop), ("BLINK".toList, .blink),
   ("REPORT_STATE".toList, .reportState), ("DEVICE_STATE_REPORT".toList, .deviceStateReport),
   ("REGISTER_VALUES_REPORT".toList, .registerValuesReport)]

/-- An opening brace. -/
def openBrace : Char := Char.ofNat 123

/-- A closing brace. -/
def closeBrace : Char := Char.ofNat 125

/-- A character that stands for itself between words. -/
def isMark (c : Char) : Bool := c == '=' || c == ',' || c == '[' || c == ']' || c == openBrace || c == closeBrace

/-- The word collected so far, if one is, before the tokens that follow. -/
def closeWord (acc : List Char) (rest : List Token) : List Token :=
  if acc.isEmpty then rest else .word acc.reverse :: rest

/-- The tokens of a line. `acc` is the word or string being collected, last character first, `inside` whether it is a
string; `;` begins a comment (R85). -/
def tokenize : List Char → (acc : List Char) → (inside : Bool) → List Token
  | [], acc, _ => closeWord acc []
  | c :: cs, acc, true => if c == '"' then .quoted acc.reverse :: tokenize cs [] false else tokenize cs (c :: acc) true
  | c :: cs, acc, false =>
    if c == ';' then closeWord acc []
    else if c == '"' then closeWord acc (tokenize cs [] true)
    else if c == ' ' then closeWord acc (tokenize cs [] false)
    else if isMark c then closeWord acc (.mark c :: tokenize cs [] false)
    else tokenize cs (c :: acc) false

/-- A natural number written in digits of a base; `none` where a character is no digit of it, or there is none. -/
def readNat (base : Nat) (cs : List Char) : Option Nat :=
  if cs.isEmpty then none
  else
    cs.foldl (fun acc c =>
      match acc, hexVal c with
      | some n, some d => if d.toNat < base then some (n * base + d.toNat) else none
      | _, _ => none) (some 0)

/-- An integer literal: `0x..` or decimal with an optional sign (R11, R85). -/
def readInt : List Char → Option Int
  | '0' :: 'x' :: cs => (readNat 16 cs).map Int.ofNat
  | '-' :: cs => (readNat 10 cs).map fun n => -(n : Int)
  | cs => (readNat 10 cs).map Int.ofNat

/-- A byte literal. -/
def readByte (cs : List Char) : Option Byte :=
  match readInt cs with
  | some v => if 0 ≤ v ∧ v ≤ 255 then some (BitVec.ofInt 8 v) else none
  | none => none

/-- A flag of an Address: 0 or 1. -/
def readFlag (cs : List Char) : Option Bool :=
  if cs = ['0'] then some false else if cs = ['1'] then some true else none

/-- A one-word operand: a reference, the sentinel, a command name, a handler `h<n>` as the programs of
95_test_vectors.md write it, or an integer. -/
def readWord (cs : List Char) : Option Value :=
  match cs with
  | '%' :: name => some (.ref name)
  | _ =>
    if cs = "auto".toList then some .auto
    else
      match commandTable.lookup cs with
      | some name => some (.command name)
      | none =>
        match cs with
        | 'h' :: digits => (readNat 10 digits).map fun n => .handler ⟨n⟩
        | _ => (readInt cs).map .int

/-- The bytes of a byte list after its opening bracket, and the tokens after its closing one. -/
def readBytes : List Token → Option (Bytes × List Token)
  | .mark ']' :: rest => some ([], rest)
  | .word w :: .mark ']' :: rest => (readByte w).map fun b => ([b], rest)
  | .word w :: .mark ',' :: rest =>
    match readByte w, readBytes rest with
    | some b, some (bs, rest') => some (b :: bs, rest')
    | _, _ => none
  | _ => none

/-- One `key=value` field of an Address (R85). A key given again replaces the value given before (DESIGN CHOICE, safe;
log entry 22). -/
def readAddressField (key value : List Char) (a : Address) : Option Address :=
  if key = "net".toList then (readByte value).map fun b => { a with networkId := b }
  else if key = "tgt".toList then (readByte value).map fun b => { a with targetId := b }
  else if key = "ch".toList then
    match readInt value with
    | some v => if 0 ≤ v then some { a with channel := some v.toNat } else none
    | none => none
  else if key = "link".toList then (readFlag value).map fun f => { a with isLink := f }
  else if key = "device".toList then (readFlag value).map fun f => { a with isDevice := f }
  else if key = "multi".toList then (readFlag value).map fun f => { a with multiChannel := f }
  else none

/-- The fields of an Address after its opening brace, in any order, and the tokens after its closing one. A field that
is not written keeps the value it has in `a`. R85 lets only `ch` be left out; that another field may be is the model's
reading (DESIGN CHOICE, safe; log entry 22). -/
def readAddress : List Token → Address → Option (Address × List Token)
  | .word key :: .mark '=' :: .word value :: .mark c :: rest, a =>
    match readAddressField key value a with
    | none => none
    | some a' => if c = ',' then readAddress rest a' else if c = closeBrace then some (a', rest) else none
  | _, _ => none

/-- One operand's value and the tokens after it. An Address is read over `zeroAddress`: a `net` or `tgt` that is not
written is 0, a `link`, `device` or `multi` that is not written is false (DESIGN CHOICE, safe; log entry 22), a `ch`
that is not written is absent (R85). -/
def readValue : List Token → Option (Value × List Token)
  | .word w :: rest => (readWord w).map fun v => (v, rest)
  | .quoted t :: rest => some (.text t, rest)
  | .mark c :: rest =>
    if c = '[' then (readBytes rest).map fun out => (.bytes out.1, out.2)
    else if c = openBrace then (readAddress rest zeroAddress).map fun out => (.addr out.1, out.2)
    else none
  | [] => none

/-- The operands of a line, at most `fuel` of them. -/
def readOperands : (fuel : Nat) → List Token → Option (List (Option (List Char) × Value))
  | 0, _ => none
  | _ + 1, [] => some []
  | fuel + 1, toks =>
    let (key, body) := match toks with
      | .word k :: .mark '=' :: rest => (some k, rest)
      | _ => (none, toks)
    match readValue body with
    | none => none
    | some (v, []) => some [(key, v)]
    | some (v, .mark ',' :: rest) => (readOperands fuel rest).map fun vs => (key, v) :: vs
    | some _ => none

/-- A line of a script (R85): `%name = MNEMONIC operand, ...` or `MNEMONIC operand, ...`. -/
def parseLine (text : List Char) : Option Line :=
  match tokenize text [] false with
  | .word ('%' :: name) :: .mark '=' :: .word m :: rest =>
    (readOperands (rest.length + 1) rest).map fun vs => { dest := some name, mnemonic := m, operands := vs }
  | .word m :: rest => (readOperands (rest.length + 1) rest).map fun vs => { dest := none, mnemonic := m, operands := vs }
  | _ => none

/-- The results kept so far, by name. -/
abbrev Env := List (Name × Result)

/-- A written operand with a `%name` replaced by what an earlier result holds, where an operand can hold it. -/
def resolve (env : Env) : Value → Option (Value ⊕ DecodedMessage)
  | .ref name =>
    match env.lookup name with
    | some (.message m) => some (.inr m)
    | some (.hex t) => some (.inl (.text t))
    | some (.bytes bs) => some (.inl (.bytes bs))
    | some (.byte b) => some (.inl (.int b.toNat))
    | some (.word w) => some (.inl (.int w.toNat))
    | some (.fields _) | some .unit | some (.summary _ _ _) | some (.bool _) | none => none
  | v => some (.inl v)

/-- An integer operand: a literal or a command name standing for its byte (R85). -/
def valueInt (codes : CmdCodes) : Value → Option Int
  | .int v => some v
  | .command name => some (cmdCode codes name).toNat
  | _ => none

/-- One operand put into the operand record; `none` where its kind is not the one R82 gives it. -/
def setOperand (codes : CmdCodes) (name : OperandName) (v : Value ⊕ DecodedMessage) (a : Args) : Option Args :=
  match name, v with
  | .msg, .inr m => some { a with msg := m }
  | _, .inr _ => none
  | .cw, .inl v => (valueInt codes v).map fun n => { a with cw := n }
  | .encCw, .inl .auto => some { a with encCw := .auto }
  | .encCw, .inl v => (valueInt codes v).map fun n => { a with encCw := .word n }
  | .frame, .inl (.bytes bs) => some { a with frame := bs }
  | .payload, .inl (.bytes bs) => some { a with payload := bs }
  | .text, .inl (.text t) => some { a with text := t }
  | .addr, .inl (.addr ad) => some { a with addr := ad }
  | .h, .inl (.handler h) => some { a with handler := h }
  | .code, .inl v =>
    match valueInt codes v with
    | some n => if 0 ≤ n ∧ n ≤ 255 then some { a with code := BitVec.ofInt 8 n } else none
    | none => none
  | .rep, .inl v => (valueInt codes v).map fun n => { a with rep := some n }
  | .ack, .inl v => (valueInt codes v).map fun n => { a with ack := some n }
  | .src, .inl v => (valueInt codes v).map fun n => { a with src := n }
  | .cmd, .inl v => (valueInt codes v).map fun n => { a with cmd := n }
  | .level, .inl v => (valueInt codes v).map fun n => { a with level := n }
  | .rate, .inl v => (valueInt codes v).map fun n => { a with rate := n }
  | .frame, .inl _ | .payload, .inl _ | .text, .inl _ | .addr, .inl _ | .h, .inl _ | .msg, .inl _ => none

/-- The operand record of a line: a keyed operand goes to its name, an unkeyed one to the first name not yet given;
what is left without a value must have a default (R82: rep and ack). -/
def bindOperands (codes : CmdCodes) (env : Env) :
    List OperandName → List (Option (List Char) × Value) → Args → Option Args
  | names, [], a => if names.all (fun n => n = .rep ∨ n = .ack) then some a else none
  | names, (key, v) :: rest, a =>
    let target := match key with
      | some k => names.find? fun n => n.key = k
      | none => names.head?
    match target, resolve env v with
    | some n, some w =>
      match setOperand codes n w a with
      | some a' => bindOperands codes env (names.erase n) rest a'
      | none => none
    | _, _ => none

/-- The request a line stands for, given the results kept so far. -/
def lineRequest (codes : CmdCodes) (env : Env) (line : Line) : Option Request :=
  match scriptTable.lookup line.mnemonic with
  | none => none
  | some (op, names) => (bindOperands codes env names line.operands zeroArgs).map fun a => { op := op, args := a }

/-- A script run by one host (R86): each line's request issued in order, its result kept under its name, stopping at
the first fault or at the first line that is no request. What comes back is the responses, the results kept, and the
state after. A request that stands on the port before the first is replaced by it (log entry 23). -/
def runScript : List Line → Env → State → List Response × Env × State
  | [], env, s => ([], env, s)
  | line :: rest, env, s =>
    match lineRequest s.params.cmd env line with
    | none => ([], env, s)
    | some r =>
      match issue r s with
      | (some (.ok v hs), t) =>
        let env' := match line.dest with
          | some name => (name, v) :: env
          | none => env
        let out := runScript rest env' t
        (.ok v hs :: out.1, out.2.1, out.2.2)
      | (some (.fault f), t) => ([.fault f], env, t)
      | (none, t) => ([], env, t)

end Sys2Proof.Machine
end

