-- ==== Sys2Proof/Tests/Slice0.lean ====
section
/-! SUPPORT. Tests: the WellFormed smoke test, one request of each operation decoded, the vectors of
95_test_vectors.md (each test names its vector; its expected value is the vector's, not the model's), and a witness for
the hypotheses of each statement of Certificates/Slice0/Obligations.lean. -/

namespace Sys2Proof.Tests

open Sys2Proof.Machine

/-- `L5` of 95_test_vectors.md part 2: a link. -/
def l5 : Address := ⟨0x01, 0x05, none, true, false, false⟩

/-- `M10`: channel `ch` of a multi-channel device. -/
def m10 (ch : Option Nat) : Address := ⟨0x01, 0x0A, ch, false, true, true⟩

/-- `S11`: a single-channel device. -/
def s11 : Address := ⟨0x01, 0x0B, none, false, true, false⟩

/-- `BAD`: both is_link and is_device. -/
def bad : Address := ⟨0x01, 0x05, none, true, true, false⟩

/-- The message of V-DEC-8. -/
def dec8 : DecodedMessage := ⟨false, 0, 8, 0, 1, 0, 0x01, 0xFF, 0x0B, 0x86, [0x64]⟩

/-- A block after reset whose source will give these answers, with the default CMD_CODE and LEN_MERGE = REPLACE. -/
def st (answers : List Int) : State :=
  { State.reset with txAnswers := answers, params := { cmd := defaultCmdCodes, lenMerge := .replace } }

/-- `st` under LEN_MERGE = OR. -/
def stOr : State := { st [] with params := { cmd := defaultCmdCodes, lenMerge := .or } }

/-- `st` with REG(0x86) = [h1, h2]. -/
def stReg : State := { st [] with reg := [(0x86, [⟨1⟩, ⟨2⟩])] }

/-- The state after an operation, where it answers one. -/
def after (i : Instr) (s : State) : Option State :=
  match exec i s with
  | .next t => some t
  | .fault _ | .refused _ => none

/-- The response of an operation. -/
def resp (i : Instr) (s : State) : Option Response := (after i s).bind (·.response)

/-- The history after an operation. -/
def histOf (i : Instr) (s : State) : Option (List Event) := (after i s).map (·.hist)

/-- An Ok response without INVOKE. -/
def ok (r : Result) : Option Response := some (.ok r none)

/-- A hex-string response. -/
def okHex (t : String) : Option Response := ok (.hex t.toList)

/-- A fault response. -/
def flt (f : BlockFault) : Option Response := some (.fault f)

/-! ### WellFormed (R13: Hex is a list of ASCII characters) -/

theorem test_wf_accepts_ascii : (Instr.hexParse "0aff".toList).wellFormed = true := by decide

theorem test_wf_refuses_hexParse_not_ascii : (Instr.hexParse ['0', 'é']).wellFormed = false := by decide

theorem test_wf_refuses_incTx_not_ascii : (Instr.incTx [Char.ofNat 128]).wellFormed = false := by decide

/-! ### Decoding: OP values and operand records from R80 and R82 -/

/-- An operand record in which every operand R82 names has a value of its own. -/
def args : Args :=
  { cw := 0xC758, encCw := .auto, frame := [0x0A, 0xFF], code := 0x86, handler := ⟨7⟩, msg := dec8, addr := s11,
    rep := some 2, ack := some 5, src := 0xFE, cmd := 0x22, payload := [0x32], text := ['0', 'A'], level := 50,
    rate := -1 }

/-- The operation a request with `args` selects. -/
def dec (op : Byte) : Option Instr :=
  match decodeRequest { op := op, args := args } with
  | .ok i => some i
  | .error _ => none

theorem test_dec_unpackCw : dec 0b00000000 = some (.unpackCw 0xC758) := by decide
theorem test_dec_decode : dec 0b00000001 = some (.decode [0x0A, 0xFF]) := by decide
theorem test_dec_register : dec 0b00000010 = some (.register 0x86 ⟨7⟩) := by decide
theorem test_dec_dispatch : dec 0b00000011 = some (.dispatch dec8) := by decide
theorem test_dec_cksumGen : dec 0b00000100 = some (.cksumGen [0x0A, 0xFF]) := by decide
theorem test_dec_cksumVerify : dec 0b00000101 = some (.cksumVerify [0x0A, 0xFF]) := by decide
theorem test_dec_buildCw : dec 0b00000110 = some (.buildCw s11 2 5) := by decide
theorem test_dec_encode : dec 0b00000111 = some (.encode .auto s11 0xFE 0x22 [0x32]) := by decide
theorem test_dec_hexSerialize : dec 0b00001000 = some (.hexSerialize [0x0A, 0xFF]) := by decide
theorem test_dec_hexParse : dec 0b00001001 = some (.hexParse ['0', 'A']) := by decide
theorem test_dec_levelPayload : dec 0b00001010 = some (.levelPayload s11 50 (-1)) := by decide
theorem test_dec_encActivate : dec 0b00001011 = some (.encActivate s11 0xFE) := by decide
theorem test_dec_encDeactivate : dec 0b00001100 = some (.encDeactivate s11 0xFE) := by decide
theorem test_dec_encGoto : dec 0b00001101 = some (.encGoto s11 0xFE 50 (-1)) := by decide
theorem test_dec_encFadeStart : dec 0b00001110 = some (.encFadeStart s11 0xFE 50 (-1)) := by decide
theorem test_dec_encFadeStop : dec 0b00001111 = some (.encFadeStop s11 0xFE) := by decide
theorem test_dec_encBlink : dec 0b00010000 = some (.encBlink s11 0xFE (-1)) := by decide
theorem test_dec_encReportState : dec 0b00010001 = some (.encReportState s11 0xFE) := by decide
theorem test_dec_incTx : dec 0b00010010 = some (.incTx ['0', 'A']) := by decide

/-- R81: the first and the last OP value that select nothing. -/
theorem test_dec_unused : dec 0x13 = none ∧ dec 0xFF = none := by decide

/-- R82: BUILD_CW's rep and ack default to 0, each for itself. -/
theorem test_dec_defaults :
    decodeRequest { op := 0x06, args := { args with rep := none, ack := none } } = .ok (.buildCw s11 0 0) ∧
      decodeRequest { op := 0x06, args := { args with ack := none } } = .ok (.buildCw s11 2 0) ∧
      decodeRequest { op := 0x06, args := { args with rep := none } } = .ok (.buildCw s11 0 5) := ⟨rfl, rfl, rfl⟩

/-- A row's word on the request port is what the next step serves: CKSUM_GEN of the empty sequence (V-OP-3). -/
theorem test_step_serves_fetched_word :
    (match step ((st []).withFetchWord 8 0x04) with
     | .next t => t.response
     | .fault _ | .refused _ => none) = ok (.byte 0x00) := by decide

/-- V-OP-1. -/
theorem test_step_illegal_op :
    (match step ((st []).withFetchWord 8 0x13) with
     | .next t => t.response
     | .fault _ | .refused _ => none) = flt (.illegalOp 0x13) := by decide

/-- R9, R224: a request the host holds is presented and then served. -/
theorem test_host_list_is_served :
    (match Sys2Proof.core.run 2 { st [] with pending := [{ op := 0x04, args := zeroArgs }] } with
     | .next t => t.response
     | .fault _ | .refused _ => none) = ok (.byte 0x00) := by decide

/-! ### The operations, one step each -/

/-- V-UCW-5. -/
theorem test_unpackCw : resp (.unpackCw 0xC758) (st []) = ok (.fields ⟨true, 2, 7, 5, 2, 0⟩) := by decide

/-- V-UCW-11. -/
theorem test_unpackCw_wide : resp (.unpackCw 0x10000) (st []) = flt (.contractViolation .cw 65536) := by decide

/-- V-DEC-1. -/
theorem test_decode :
    resp (.decode [0x0A, 0x00, 0x01, 0x0A, 0xFF, 0x22, 0x32, 0xFF, 0x03]) (st []) =
      ok (.message ⟨false, 0, 10, 0, 0, 0, 0x01, 0x0A, 0xFF, 0x22, [0x32, 0xFF, 0x03]⟩) := by decide

/-- V-DEC-2. -/
theorem test_decode_short : resp (.decode [0x07, 0x00, 0x01, 0x05, 0xFF]) (st []) = flt (.malformedFrame 5) := by decide

/-- V-REG-3. -/
theorem test_register_again :
    (after (.register 0x86 ⟨1⟩) stReg).map (fun t => (t.reg, t.hist)) =
      some ([(0x86, [⟨1⟩, ⟨2⟩])], [.registered 0x86 ⟨1⟩ false]) := by decide

/-- V-REG-4. -/
theorem test_register_other_code :
    (after (.register 0x90 ⟨1⟩) stReg).map (fun t => (t.handlers 0x90, t.handlers 0x86)) =
      some ([⟨1⟩], [⟨1⟩, ⟨2⟩]) := by decide

/-- V-DSP-1. -/
theorem test_dispatch :
    resp (.dispatch dec8) stReg = some (.ok (.summary 0x01 0x0B 2) (some [⟨1⟩, ⟨2⟩])) := by decide

/-- V-DSP-3. -/
theorem test_dispatch_top_count :
    resp (.dispatch ⟨true, 3, 31, 7, 3, 3, 0x12, 0x34, 0x56, 0x78, []⟩) stReg =
      some (.ok (.summary 0x12 0x56 4) (some [])) := by decide

/-- V-CK-7. -/
theorem test_cksumGen : resp (.cksumGen [0xC7, 0x58, 0x01, 0x05, 0xFF, 0x20]) (st []) = ok (.byte 0xBC) := by decide

/-- V-CK-5. -/
theorem test_cksumGen_wraps : resp (.cksumGen [0x80, 0x80]) (st []) = ok (.byte 0x00) := by decide

/-- V-CK-13. -/
theorem test_cksumVerify :
    resp (.cksumVerify [0xC7, 0x58, 0x01, 0x05, 0xFF, 0x20, 0xBC]) (st []) = ok (.bool true) := by decide

/-- V-CK-12. -/
theorem test_cksumVerify_false : resp (.cksumVerify [0x01, 0xFE]) (st []) = ok (.bool false) := by decide

/-- V-BCW-4. -/
theorem test_buildCw : resp (.buildCw s11 3 7) (st [4]) = ok (.word 0x607C) := by decide

/-- V-BCW-5: the fault, and the query that stays. -/
theorem test_buildCw_bad_count :
    resp (.buildCw s11 0 0) (st [0]) = flt (.contractViolation .txCount 0) ∧
      histOf (.buildCw s11 0 0) (st [0]) = some [.txQuery 0x01 0x0B 0] := by decide

/-- V-ENC-6, both modes. -/
theorem test_encode_merge :
    resp (.encode (.word 0x0800) l5 0xFF 0x20 []) (st []) = okHex "07000105FF20D4" ∧
      resp (.encode (.word 0x0800) l5 0xFF 0x20 []) stOr = okHex "0F000105FF20CC" := by decide

/-- V-ENC-4: the fault, and the query that stays. -/
theorem test_encode_too_long :
    resp (.encode .auto s11 0xFF 0x22 (List.replicate 25 0)) (st [1]) = flt (.frameTooLong 32) ∧
      histOf (.encode .auto s11 0xFF 0x22 (List.replicate 25 0)) (st [1]) = some [.txQuery 0x01 0x0B 1] := by decide

/-- V-HEX-1. -/
theorem test_hexSerialize : resp (.hexSerialize [0x0A, 0xFF, 0x00]) (st []) = okHex "0AFF00" := by decide

/-- V-HEX-4. -/
theorem test_hexParse : resp (.hexParse "0aff".toList) (st []) = ok (.bytes [0x0A, 0xFF]) := by decide

/-- V-HEX-9: an odd length is reported before a bad character. -/
theorem test_hexParse_odd_first : resp (.hexParse "G0A".toList) (st []) = flt (.malformedHex 3) := by decide

/-- V-LVL-2. -/
theorem test_levelPayload : resp (.levelPayload (m10 (some 0)) 100 255) (st []) = ok (.bytes [0x64, 0xFF, 0x01]) := by decide

/-- V-LVL-6: a link has no channel byte. -/
theorem test_levelPayload_link :
    resp (.levelPayload { l5 with multiChannel := true } 0 (-1)) (st []) = ok (.bytes [0x00]) := by decide

/-- V-CMD-1. -/
theorem test_encActivate : resp (.encActivate l5 0xFF) (st [1]) = okHex "87000105FF2054" := by decide

/-- V-CMD-11. -/
theorem test_encActivate_bad_count :
    resp (.encActivate l5 0xFF) (st [0]) = flt (.contractViolation .txCount 0) := by decide

/-- V-CMD-2. -/
theorem test_encDeactivate : resp (.encDeactivate l5 0xFF) (st [1]) = okHex "87000105FF2153" := by decide

/-- V-CMD-3. -/
theorem test_encGoto : resp (.encGoto (m10 (some 2)) 0xFF 50 (-1)) (st [1]) = okHex "0A00010AFF2232FF0396" := by decide

/-- V-CMD-10: no query. -/
theorem test_encGoto_bad_rate :
    resp (.encGoto s11 0xFF 50 300) (st []) = flt (.argRange .rate (some 300)) ∧
      histOf (.encGoto s11 0xFF 50 300) (st []) = some [] := by decide

/-- V-CMD-5. -/
theorem test_encFadeStart : resp (.encFadeStart s11 0xFF 50 10) (st [2]) = okHex "0904010BFF23320A89" := by decide

/-- V-CMD-6. -/
theorem test_encFadeStop : resp (.encFadeStop s11 0xFF) (st [1]) = okHex "0700010BFF24CA" := by decide

/-- V-CMD-7. -/
theorem test_encBlink : resp (.encBlink s11 0xFF 0x10) (st [1]) = okHex "0800010BFF2510B8" := by decide

/-- V-CMD-9. -/
theorem test_encBlink_bad_rate : resp (.encBlink s11 0xFF (-1)) (st []) = flt (.argRange .rate (some (-1))) := by decide

/-- V-CMD-8. -/
theorem test_encReportState : resp (.encReportState s11 0xFF) (st [1]) = okHex "0700010BFF30BE" := by decide

/-- V-INC-6. -/
theorem test_incTx : resp (.incTx "0a00010aff2232ff0396".toList) (st []) = okHex "0A04010AFF2232FF0392" := by decide

/-- V-INC-7: a saturated string comes back verbatim. -/
theorem test_incTx_saturated :
    resp (.incTx "0a0c010aff2232ff038a".toList) (st []) = okHex "0a0c010aff2232ff038a" := by decide

/-- R85: a line of V-PROG-2 in the script notation. -/
theorem test_script_line :
    (parseLine "%u = UNPACK_CW 0x090C ; tx_count 3".toList).map (·.operands) = some [(none, .int 0x90C)] := by decide

/-! ### Witnesses: the hypotheses of each statement, met together, clause by clause -/

theorem witness_UnpackCwReadsEveryField :
    0xFFFF ≤ 0xFFFF ∧ ((-1 : Int) < 0 ∨ 0xFFFF < (-1 : Int)) ∧ ((0x10000 : Int) < 0 ∨ 0xFFFF < (0x10000 : Int)) := by
  decide

theorem witness_ReservedBitIsReadByNoField : 0x0080 ≤ 0xFFFF ∧ 4 ≤ ([0x01, 0x05, 0xFF, 0x20] : Bytes).length := by decide

/-- V-BCW-4, V-ENC-5 and V-INC-1: each operation of the later clauses answers its result. -/
theorem witness_ReservedBitIsReadByNoField_written :
    (∃ (t : State) (w : ControlWord), exec (.buildCw s11 3 7) (st [4]) = .next t ∧ t.result = some (.word w)) ∧
    (∃ (t : State) (text : Hex), exec (.encode (.word ((0x0083 : Nat) : Int)) l5 0xFF 0x20 []) (st []) = .next t ∧
      t.result = some (.hex text)) ∧
    (∃ (t : State) (text : Hex), exec (.incTx "0700010BFF24CA".toList) (st []) = .next t ∧ t.result = some (.hex text)) :=
  ⟨⟨_, _, rfl, rfl⟩, ⟨_, _, rfl, rfl⟩, _, _, rfl, rfl⟩

theorem witness_DecodeParsesEveryFrame : ([0x07, 0x00, 0x01, 0x05, 0xFF] : Bytes).length < 6 := by decide

theorem witness_RegisterAppendsOnce :
    (⟨1⟩ : Handler) ∈ stReg.handlers 0x86 ∧ (⟨1⟩ : Handler) ∉ stReg.handlers 0x90 := by decide

theorem witness_VerifyCatchesOneByteChange_change :
    (0xFF : Byte) ≠ 0xFE ∧ ((([0x01] : Bytes) ++ 0xFF :: []).map BitVec.toNat).sum % 256 = 0 := by decide

theorem witness_VerifyCatchesOneByteChange_unseen :
    ([0x01, 0xFF] : Bytes) ≠ [] ∧ ([0xFF, 0x01] : Bytes) ≠ [] ∧ ([0x01, 0xFF] : Bytes).Perm [0xFF, 0x01] ∧
      (([0x80, 0x80] : Bytes).map BitVec.toNat).sum % 256 = (([0x00] : Bytes).map BitVec.toNat).sum % 256 := by decide

theorem witness_BuildCwPacksItsFields_low :
    l5.isLink ≠ l5.isDevice ∧ 0 ≤ 3 ∧ 0 ≤ 7 ∧ (st [1]).nextTxAnswer l5.networkId l5.targetId = ((1 : Nat) : Int) ∧
      1 ≤ 1 ∧ 1 ≤ 4 := by decide

theorem witness_BuildCwPacksItsFields_high :
    s11.isLink ≠ s11.isDevice ∧ 3 ≤ 3 ∧ 7 ≤ 7 ∧ (st [4]).nextTxAnswer s11.networkId s11.targetId = ((4 : Nat) : Int) ∧
      1 ≤ 4 ∧ 4 ≤ 4 := by decide

theorem witness_BuildCwPacksItsFields_address : bad.isLink = bad.isDevice ∧ zeroAddress.isLink = zeroAddress.isDevice := by
  decide

theorem witness_BuildCwPacksItsFields_rep :
    s11.isLink ≠ s11.isDevice ∧ ((4 : Int) < 0 ∨ 3 < (4 : Int)) ∧ ((-1 : Int) < 0 ∨ 3 < (-1 : Int)) := by decide

theorem witness_BuildCwPacksItsFields_ack :
    s11.isLink ≠ s11.isDevice ∧ 0 ≤ (3 : Int) ∧ (3 : Int) ≤ 3 ∧ ((8 : Int) < 0 ∨ 7 < (8 : Int)) ∧
      ((-1 : Int) < 0 ∨ 7 < (-1 : Int)) := by decide

theorem witness_BuildCwPacksItsFields_count :
    s11.isLink ≠ s11.isDevice ∧ 0 ≤ (3 : Int) ∧ (3 : Int) ≤ 3 ∧ 0 ≤ (7 : Int) ∧ (7 : Int) ≤ 7 ∧
      (st [0]).nextTxAnswer s11.networkId s11.targetId = 0 ∧ ((0 : Int) < 1 ∨ 4 < (0 : Int)) ∧
      (st [5]).nextTxAnswer s11.networkId s11.targetId = 5 ∧ ((5 : Int) < 1 ∨ 4 < (5 : Int)) := by decide

theorem witness_EncodeGivesTheFrameOrTheFirstFault_word :
    l5.isLink ≠ l5.isDevice ∧ 0xFFFF ≤ 0xFFFF ∧ 255 ≤ 255 ∧ 255 ≤ 255 ∧ (List.replicate 24 (0 : Byte)).length ≤ 24 := by
  decide

theorem witness_EncodeGivesTheFrameOrTheFirstFault_auto :
    l5.isLink ≠ l5.isDevice ∧ 255 ≤ 255 ∧ (List.replicate 24 (0 : Byte)).length ≤ 24 ∧
      (st [4]).nextTxAnswer l5.networkId l5.targetId = ((4 : Nat) : Int) ∧ 1 ≤ 4 ∧ 4 ≤ 4 := by decide

theorem witness_EncodeGivesTheFrameOrTheFirstFault_operands :
    bad.isLink = bad.isDevice ∧ l5.isLink ≠ l5.isDevice ∧ ((256 : Int) < 0 ∨ 255 < (256 : Int)) ∧
      ((-1 : Int) < 0 ∨ 255 < (-1 : Int)) ∧ 0 ≤ (255 : Int) ∧ (255 : Int) ≤ 255 ∧
      ((0x10000 : Int) < 0 ∨ 0xFFFF < (0x10000 : Int)) ∧ ((-1 : Int) < 0 ∨ 0xFFFF < (-1 : Int)) := by decide

theorem witness_EncodeGivesTheFrameOrTheFirstFault_length :
    l5.isLink ≠ l5.isDevice ∧ 255 ≤ 255 ∧ 0xFFFF ≤ 0xFFFF ∧ 25 ≤ (List.replicate 25 (0 : Byte)).length ∧
      (st [4]).nextTxAnswer l5.networkId l5.targetId = 4 ∧ 1 ≤ (4 : Int) ∧ (4 : Int) ≤ 4 := by decide

theorem witness_EncodeGivesTheFrameOrTheFirstFault_count :
    l5.isLink ≠ l5.isDevice ∧ 255 ≤ 255 ∧ (st [0]).nextTxAnswer l5.networkId l5.targetId = 0 ∧
      ((0 : Int) < 1 ∨ 4 < (0 : Int)) ∧ (st [7]).nextTxAnswer l5.networkId l5.targetId = 7 ∧
      ((7 : Int) < 1 ∨ 4 < (7 : Int)) := by decide

/-- V-CMD-7's operation returns a hex string. -/
theorem witness_EveryEncodedFrameVerifies :
    ∃ (i : Instr) (t : State) (text : Hex), (∃ addr src rate, i = .encBlink addr src rate) ∧
      exec i (st [1]) = .next t ∧ t.result = some (.hex text) :=
  ⟨.encBlink s11 0xFF 0x10, _, _, ⟨_, _, _, rfl⟩, rfl, rfl⟩

/-- V-ENC-7 under OR, where the decoded length is not the frame's. -/
theorem witness_EncodedFrameDecodesBack :
    ∃ (t : State) (text : Hex), exec (.encode (.word 0x1F00) l5 0xFF 0x20 []) stOr = .next t ∧
      t.result = some (.hex text) := ⟨_, _, rfl, rfl⟩

theorem witness_LengthMergeModesAgree :
    (∀ v : Int, CwOperand.word 0xE0FF = .word v → v / 2 ^ 8 % 2 ^ 5 = 0) ∧
      (∀ v : Int, CwOperand.auto = .word v → v / 2 ^ 8 % 2 ^ 5 = 0) :=
  ⟨fun v h => by cases h; decide, fun v h => by cases h⟩

theorem witness_HexSerializeWritesUppercaseDigits : ([0x0A, 0xFF] : Bytes)[1]? = some 0xFF := by decide

theorem witness_HexParseReadsDigitPairs_read :
    ['f', 'A'].length = 2 * ([0xFA] : Bytes).length ∧ ∀ (k : Nat) (b : Byte), ([0xFA] : Bytes)[k]? = some b →
      ∃ (x y : Char) (hi lo : Nibble), ['f', 'A'][2 * k]? = some x ∧ ['f', 'A'][2 * k + 1]? = some y ∧
        hexVal x = some hi ∧ hexVal y = some lo ∧ b.toNat = hi.toNat * 16 + lo.toNat := by
  refine ⟨rfl, fun k b h => ?_⟩
  cases k with
  | zero => cases h; exact ⟨'f', 'A', 0xF, 0xA, rfl, rfl, rfl, rfl, rfl⟩
  | succ k => cases h

theorem witness_HexParseReadsDigitPairs_faults :
    ['0', 'A', 'F'].length % 2 = 1 ∧ (['0'] ++ 'G' :: []).length % 2 = 0 ∧ (∀ x ∈ ['0'], hexVal x ≠ none) ∧
      hexVal 'G' = none := by
  refine ⟨rfl, rfl, fun x h => ?_, rfl⟩
  cases List.mem_singleton.1 h
  decide

theorem witness_HexParseAndSerializeAreInverse :
    ∃ (t : State) (bs : Bytes), exec (.hexParse ['0', 'a']) (st []) = .next t ∧ t.result = some (.bytes bs) :=
  ⟨_, _, rfl, rfl⟩

theorem witness_LevelPayloadGivesTheTable_channel :
    (m10 (some 254)).isLink ≠ (m10 (some 254)).isDevice ∧ 255 ≤ 255 ∧ -1 ≤ (-1 : Int) ∧ (-1 : Int) ≤ 255 ∧
      levelForm (m10 (some 254)) 255 (-1) [0xFF, 0xFF, 0xFF] :=
  ⟨by decide, by decide, by decide, by decide, .inl ⟨rfl, rfl, 254, by decide, rfl, rfl⟩⟩

theorem witness_LevelPayloadGivesTheTable_rate :
    s11.isLink ≠ s11.isDevice ∧ 0 ≤ 255 ∧ -1 ≤ (255 : Int) ∧ (255 : Int) ≤ 255 ∧ levelForm s11 0 255 [0x00, 0xFF] :=
  ⟨by decide, by decide, by decide, by decide, .inr (.inl ⟨by decide, by decide, rfl⟩)⟩

theorem witness_LevelPayloadGivesTheTable_noRate :
    l5.isLink ≠ l5.isDevice ∧ 255 ≤ 255 ∧ levelForm l5 255 (-1) [0xFF] :=
  ⟨by decide, by decide, .inr (.inr ⟨by decide, rfl, rfl⟩)⟩

theorem witness_LevelPayloadGivesTheTable_faults :
    bad.isLink = bad.isDevice ∧ s11.isLink ≠ s11.isDevice ∧ ((256 : Int) < 0 ∨ 255 < (256 : Int)) ∧
      ((-1 : Int) < 0 ∨ 255 < (-1 : Int)) ∧ ((-2 : Int) < -1 ∨ 255 < (-2 : Int)) ∧
      ((256 : Int) < -1 ∨ 255 < (256 : Int)) ∧ 0 ≤ (255 : Int) ∧ (255 : Int) ≤ 255 := by decide

theorem witness_LevelPayloadGivesTheTable_noChannel :
    (m10 none).isLink = false ∧ (m10 none).isDevice = true ∧ (m10 none).multiChannel = true ∧
      0 ≤ (255 : Int) ∧ (255 : Int) ≤ 255 ∧ -1 ≤ (-1 : Int) ∧ (-1 : Int) ≤ 255 ∧ (m10 none).channel = none ∧
      (m10 (some 255)).channel = some 255 ∧ 254 < 255 := by decide

theorem witness_EmptyPayloadCommandsGiveTheirFrame :
    l5.isLink ≠ l5.isDevice ∧ 255 ≤ 255 ∧ (st [4]).nextTxAnswer l5.networkId l5.targetId = ((4 : Nat) : Int) ∧
      1 ≤ 4 ∧ 4 ≤ 4 ∧
      (Instr.encReportState l5 ((255 : Nat) : Int), (st [4]).params.cmd.reportState) ∈
        [(Instr.encActivate l5 ((255 : Nat) : Int), (st [4]).params.cmd.activate),
          (Instr.encDeactivate l5 ((255 : Nat) : Int), (st [4]).params.cmd.deactivate),
          (Instr.encFadeStop l5 ((255 : Nat) : Int), (st [4]).params.cmd.fadeStop),
          (Instr.encReportState l5 ((255 : Nat) : Int), (st [4]).params.cmd.reportState)] := by decide

theorem witness_EmptyPayloadCommandsGiveTheirFrame_faults :
    Instr.encReportState l5 256 ∈
        [Instr.encActivate l5 256, .encDeactivate l5 256, .encFadeStop l5 256, .encReportState l5 256] ∧
      bad.isLink = bad.isDevice ∧ l5.isLink ≠ l5.isDevice ∧ ((256 : Int) < 0 ∨ 255 < (256 : Int)) ∧
      ((-1 : Int) < 0 ∨ 255 < (-1 : Int)) ∧ 0 ≤ (255 : Int) ∧ (255 : Int) ≤ 255 ∧
      (st [0]).nextTxAnswer l5.networkId l5.targetId = 0 ∧ ((0 : Int) < 1 ∨ 4 < (0 : Int)) ∧
      (st [5]).nextTxAnswer l5.networkId l5.targetId = 5 ∧ ((5 : Int) < 1 ∨ 4 < (5 : Int)) := by decide

theorem witness_LevelCommandsGiveTheirFrame :
    s11.isLink ≠ s11.isDevice ∧ 255 ≤ 255 ∧ -1 ≤ (255 : Int) ∧ (255 : Int) ≤ 255 ∧ levelForm s11 255 255 [0xFF, 0xFF] ∧
      (st [4]).nextTxAnswer s11.networkId s11.targetId = ((4 : Nat) : Int) ∧ 1 ≤ 4 ∧ 4 ≤ 4 ∧
      (Instr.encFadeStart s11 ((255 : Nat) : Int) ((255 : Nat) : Int) 255, (st [4]).params.cmd.fadeStart) ∈
        [(Instr.encGoto s11 ((255 : Nat) : Int) ((255 : Nat) : Int) 255, (st [4]).params.cmd.goto),
          (Instr.encFadeStart s11 ((255 : Nat) : Int) ((255 : Nat) : Int) 255, (st [4]).params.cmd.fadeStart)] :=
  ⟨by decide, by decide, by decide, by decide, .inr (.inl ⟨by decide, by decide, rfl⟩), by decide, by decide, by decide,
    by decide⟩

/-- V-LVL-8: the payload faults. -/
theorem witness_LevelCommandsGiveTheirFrame_fault :
    ∃ (t : State) (f : BlockFault), exec (.levelPayload s11 50 (-2)) (st []) = .next t ∧ t.finfo = some f :=
  ⟨_, _, rfl, rfl⟩

/-- V-LVL-4: the payload is computed; then a source id, and an answer, out of range. -/
theorem witness_LevelCommandsGiveTheirFrame_later_fault :
    (∃ (p : Bytes) (t : State), exec (.levelPayload s11 50 (-1)) (st [0]) = .next t ∧ t.result = some (.bytes p)) ∧
      Instr.encFadeStart s11 256 50 (-1) ∈ [Instr.encGoto s11 256 50 (-1), .encFadeStart s11 256 50 (-1)] ∧
      ((256 : Int) < 0 ∨ 255 < (256 : Int)) ∧ 0 ≤ (255 : Int) ∧ (255 : Int) ≤ 255 ∧
      (st [0]).nextTxAnswer s11.networkId s11.targetId = 0 ∧ ((0 : Int) < 1 ∨ 4 < (0 : Int)) :=
  ⟨⟨_, _, rfl, rfl⟩, by decide, by decide, by decide, by decide, by decide, by decide⟩

theorem witness_BlinkGivesItsFrame :
    s11.isLink ≠ s11.isDevice ∧ 255 ≤ 255 ∧ 255 ≤ 255 ∧
      (st [4]).nextTxAnswer s11.networkId s11.targetId = ((4 : Nat) : Int) ∧ 1 ≤ 4 ∧ 4 ≤ 4 ∧
      bad.isLink = bad.isDevice ∧ ((-1 : Int) < 0 ∨ 255 < (-1 : Int)) ∧ ((256 : Int) < 0 ∨ 255 < (256 : Int)) := by
  decide

theorem witness_BlinkGivesItsFrame_later_fault :
    s11.isLink ≠ s11.isDevice ∧ 0 ≤ (255 : Int) ∧ (255 : Int) ≤ 255 ∧ ((256 : Int) < 0 ∨ 255 < (256 : Int)) ∧
      ((-1 : Int) < 0 ∨ 255 < (-1 : Int)) ∧ (st [5]).nextTxAnswer s11.networkId s11.targetId = 5 ∧
      ((5 : Int) < 1 ∨ 4 < (5 : Int)) := by decide

/-- V-LVL-4: the payload is computed; and a rate ENC_BLINK admits. -/
theorem witness_CommandsExpandIntoEncode :
    (∃ (p : Bytes) (t : State), exec (.levelPayload s11 50 (-1)) (st [1]) = .next t ∧ t.result = some (.bytes p)) ∧
      s11.isLink ≠ s11.isDevice ∧ 0 ≤ (255 : Int) ∧ (255 : Int) ≤ 255 :=
  ⟨⟨_, _, rfl, rfl⟩, by decide, by decide, by decide⟩

/-- V-INC-3's frame, its count at 2, cut to the shortest. -/
theorem witness_IncTxIncrementsAndSaturates :
    unhex "0708010BFF24C2".toList = .ok (0x07 :: 0x08 :: [0x01, 0x0B, 0xFF, 0x24, 0xC2]) ∧
      5 ≤ ([0x01, 0x0B, 0xFF, 0x24, 0xC2] : Bytes).length ∧ (0x08 : Byte).toNat / 4 % 4 < 3 := by
  refine ⟨rfl, ?_, ?_⟩ <;> decide

theorem witness_IncTxIncrementsAndSaturates_saturated :
    unhex "070C010BFF24BE".toList = .ok (0x07 :: 0x0C :: [0x01, 0x0B, 0xFF, 0x24, 0xBE]) ∧
      5 ≤ ([0x01, 0x0B, 0xFF, 0x24, 0xBE] : Bytes).length ∧ (0x0C : Byte).toNat / 4 % 4 = 3 := by
  refine ⟨rfl, ?_, ?_⟩ <;> decide

theorem witness_IncTxIncrementsAndSaturates_faults :
    unhex "0A0".toList = .error (.malformedHex 3) ∧
      unhex "0700010BFF24".toList = .ok [0x07, 0x00, 0x01, 0x0B, 0xFF, 0x24] ∧
      ([0x07, 0x00, 0x01, 0x0B, 0xFF, 0x24] : Bytes).length < 7 := by
  refine ⟨rfl, rfl, ?_⟩
  decide

theorem witness_IncTxChangesOnlyCountAndChecksum :
    ∃ (bs : Bytes) (t : State) (text : Hex), unhex "0700010BFF24CA".toList = .ok bs ∧
      exec (.incTx "0700010BFF24CA".toList) (st []) = .next t ∧ t.result = some (.hex text) :=
  ⟨_, _, _, rfl, rfl, rfl⟩

theorem witness_StepRunsTheDecodedRequest :
    ((st []).withFetchWord 8 0x12).request = some (tableRequest 0x12) ∧
      decodeRequest (tableRequest 0x12) = .ok (.incTx []) ∧ (Instr.incTx []).wellFormed = true := ⟨rfl, rfl, rfl⟩

theorem witness_UnusedOpFaultsIllegalOp :
    ((st []).withFetchWord 8 0x13).request = some { op := 0x13, args := zeroArgs } ∧ 0x13 ≤ (0x13 : Byte).toNat ∧
      ((st []).withFetchWord 8 0xFF).request = some { op := 0xFF, args := zeroArgs } ∧ 0x13 ≤ (0xFF : Byte).toNat := by
  decide

theorem witness_IdleStepIsTheHostsTurn :
    (st []).request = none ∧ (st []).pending = [] ∧
      ({ st [] with pending := [tableRequest 4] } : State).pending = tableRequest 4 :: [] := ⟨rfl, rfl, rfl⟩

theorem witness_EveryRequestGetsOneResponse :
    ((st []).withFetchWord 8 0x04).request = some (tableRequest 0x04) := by decide

theorem witness_ResultsHaveTheirType :
    ∃ (t : State) (r : Result) (hs : Option (List Handler)), exec (.dispatch dec8) stReg = .next t ∧
      t.response = some (.ok r hs) := ⟨_, _, _, rfl, rfl⟩

/-- V-BCW-5, for OnlyListedFaultsAreRaised and FaultKeepsOnlyTheQuery. -/
theorem witness_faulting_operation :
    ∃ (t : State) (f : BlockFault), exec (.buildCw s11 0 0) (st [0]) = .next t ∧ t.response = some (.fault f) :=
  ⟨_, _, rfl, rfl⟩

theorem witness_PureOperationsChangeOnlyTheResponse :
    (Instr.encode (.word 0xFFFF) l5 255 255 []).isPure = true ∧
      ∃ t : State, exec (.encode (.word 0xFFFF) l5 255 255 []) (st []) = .next t := ⟨rfl, _, rfl⟩

theorem witness_EncodersQueryExactlyOnce :
    (Instr.encFadeStop s11 0xFF).queries = some s11 ∧ ∃ t : State, exec (.encFadeStop s11 0xFF) (st [1]) = .next t :=
  ⟨rfl, _, rfl⟩

/-- V-REG-4, for OnlyRegisterWritesTheRegistry and HistoryGrowsByTheOperationsEvent. -/
theorem witness_operation_that_registers : ∃ t : State, exec (.register 0x90 ⟨1⟩) stReg = .next t ∧ t.reg ≠ stReg.reg :=
  ⟨_, rfl, by decide⟩

theorem witness_AnswersDependOnlyOnRegistryAndSource :
    ∃ (u t w : State), (st [1]).reg = u.reg ∧ (st [1]).txAnswers = u.txAnswers ∧ (st [1]).txDraws = u.txDraws ∧
      (st [1]).params = u.params ∧ (st [1]).hist ≠ u.hist ∧ exec (.buildCw s11 0 0) (st [1]) = .next t ∧
      exec (.buildCw s11 0 0) u = .next w :=
  ⟨{ st [1] with hist := [.dispatched 0 []] }, _, _, rfl, rfl, rfl, rfl, by decide, rfl, rfl⟩

theorem witness_ParametersNeverChange : ∃ t : State, step ((st []).withFetchWord 8 0x04) = .next t := ⟨_, rfl⟩

/-- V-REG-2's state, with the history that led to it and a request on the port. -/
def stHist : State :=
  { stReg.withFetchWord 8 0x02 with hist := [.registered 0x86 ⟨1⟩ true, .registered 0x86 ⟨2⟩ true] }

theorem test_stHist_inv : stHist.Inv where
  registryWf := by decide
  registryHist := by
    intro code
    by_cases h : 134#8 = code <;>
      simp [stHist, stReg, st, State.handlers, Registry.get, addedFor, State.withFetchWord, h]
  history := by
    intro before e after h
    rcases before with _ | ⟨x, _ | ⟨y, before⟩⟩ <;> simp [stHist] at h <;> obtain ⟨rfl, h⟩ := h
    · simp [Event.follows, addedFor]
    · obtain ⟨rfl, rfl⟩ := h
      simp [Event.follows, addedFor]
  queries := by decide
  codes := by decide

theorem witness_StepKeepsTheInvariant : ∃ s t : State, s.Inv ∧ s.request ≠ none ∧ step s = .next t :=
  ⟨stHist, _, test_stHist_inv, by decide, rfl⟩

theorem witness_BlockResetClearsTheBlock : (st []).Inv :=
  { registryWf := by decide
    registryHist := fun _ => rfl
    history := fun before e after h => by cases before <;> cases h
    queries := by decide
    codes := by decide }

theorem witness_RequestsDecodeAndEncodeAgree :
    decodeRequest { op := 0x12, args := args } = .ok (.incTx ['0', 'A']) ∧
      encodeRequest (.incTx ['0']) = encodeRequest (.incTx ['0']) := ⟨rfl, rfl⟩

/-- V-PROG-4's first request alone is answered; and a program with no fault. -/
theorem witness_ProgramStopsAtItsFirstFault :
    (runProgram [{ op := 0x05, args := zeroArgs }, { op := 0x04, args := zeroArgs }] (st [])).1 =
        [] ++ .fault (.malformedFrame 0) :: [] ∧
      ∀ f : BlockFault, Response.fault f ∉ (runProgram [{ op := 0x04, args := zeroArgs }] (st [])).1 := by
  refine ⟨by decide, fun f h => ?_⟩
  have e : (runProgram [{ op := 0x04, args := zeroArgs }] (st [])).1 = [.ok (.byte 0) none] := by decide
  rw [e] at h
  simp at h

theorem witness_HandlersAreInvokedInOrderUntilOneFails :
    (∀ g ∈ ([⟨1⟩] : List Handler), (fun h : Handler => decide (h.id = 2)) g = false) ∧
      (fun h : Handler => decide (h.id = 2)) ⟨2⟩ = true := by decide

end Sys2Proof.Tests
end

section
/-! PROOFS. What an operation and a step can do, said once, and the family 00_scope: a step runs the operation that its
request decodes to (R9, R80), and no step changes the parameters (R7, R233). -/

namespace Sys2Proof.Machine

/-- An answer is a response on the port of the state it is given. -/
theorem answer_next (s : State) (e : Except BlockFault Result) : ∃ resp, answer s e = .next (s.respond resp) := by
  rcases answer_spec s e with ⟨r, -, h⟩ | ⟨f, -, h⟩
  · exact ⟨_, h⟩
  · exact ⟨_, h⟩

/-- An encoder's answer is a response on the port of the state its computation leaves. -/
theorem answerFrame_next (out : State × Except BlockFault Hex) :
    ∃ resp, answerFrame out = .next (out.1.respond resp) := answer_next _ _

/-- BUILD_CW's computation leaves the state as it was or after one query (R130, R203). -/
theorem buildWord_state (addr : Address) (rep ack : Int) (s : State) :
    (buildWord addr rep ack s).1 = s ∨ (buildWord addr rep ack s).1 = s.query addr.networkId addr.targetId := by
  rcases buildWord_spec addr rep ack s with ⟨f, -, h⟩ | ⟨-, -, h⟩ | ⟨-, -, h⟩
  · exact .inl (by rw [h])
  · exact .inr (by rw [h])
  · exact .inr (by rw [h])

/-- What an operation makes of the state apart from the response it gives: a pure operation leaves it alone (R49); a
querying one leaves it alone, where a check faults first, or makes its one query (R27, R203); REGISTER records whether
it added its handler (R106); DISPATCH records the handlers it returned (R108). -/
inductive ExecEffect (i : Instr) (s : State) : State → Prop where
  | pure (h : i.isPure = true) : ExecEffect i s s
  | noQuery (addr : Address) (h : i.queries = some addr) : ExecEffect i s s
  | query (addr : Address) (h : i.queries = some addr) : ExecEffect i s (s.query addr.networkId addr.targetId)
  | registerKnown (code : Byte) (h : Handler) (hi : i = .register code h) (hmem : h ∈ s.handlers code) :
      ExecEffect i s (s.record (.registered code h false))
  | registerNew (code : Byte) (h : Handler) (hi : i = .register code h) (hmem : h ∉ s.handlers code) :
      ExecEffect i s ((s.appendHandler code h).record (.registered code h true))
  | dispatch (msg : DecodedMessage) (hi : i = .dispatch msg) :
      ExecEffect i s (s.record (.dispatched msg.msgId (s.handlers msg.msgId)))

/-- Every operation is pure, queries the source, or is REGISTER or DISPATCH (R49). -/
theorem instr_kinds (i : Instr) : i.isPure = true ∨ (∃ addr, i.queries = some addr) ∨
    (∃ code h, i = .register code h) ∨ ∃ msg, i = .dispatch msg := by
  cases i with
  | register code h => exact .inr (.inr (.inl ⟨code, h, rfl⟩))
  | dispatch msg => exact .inr (.inr (.inr ⟨msg, rfl⟩))
  | encode cw =>
    cases cw with
    | auto => exact .inr (.inl ⟨_, rfl⟩)
    | word v => exact .inl rfl
  | buildCw | encActivate | encDeactivate | encGoto | encFadeStart | encFadeStop | encBlink | encReportState =>
    exact .inr (.inl ⟨_, rfl⟩)
  | _ => exact .inl rfl

/-- A pure operation answers in the state it is given (R49). -/
theorem exec_of_isPure {i : Instr} (hi : i.isPure = true) (s : State) : ∃ resp, exec i s = .next (s.respond resp) := by
  cases i with
  | unpackCw | decode | cksumVerify | hexParse | levelPayload | incTx => exact answer_next s _
  | cksumGen | hexSerialize => exact ⟨_, rfl⟩
  | encode cw addr src cmd payload =>
    cases cw with
    | auto => cases hi
    | word v =>
      have hs : (encodeFrame (.word v) addr src cmd payload s).1 = s :=
        (encodeFrame_state (.word v) addr src cmd payload s).resolve_right fun h => by cases h.1
      obtain ⟨resp, h⟩ := answerFrame_next (encodeFrame (.word v) addr src cmd payload s)
      exact ⟨resp, h.trans (by rw [hs])⟩
  | _ => cases hi

/-- An operation that computes a state and an answer, the state being as it was or after the query it names, has the
effect of a querying operation. -/
theorem answer_queryEffect {i : Instr} {addr : Address} {s t : State} (hi : i.queries = some addr)
    (ht : t = s ∨ t = s.query addr.networkId addr.targetId) (e : Except BlockFault Result) :
    ∃ u resp, answer t e = .next (u.respond resp) ∧ ExecEffect i s u := by
  obtain ⟨resp, h⟩ := answer_next t e
  refine ⟨t, resp, h, ?_⟩
  rcases ht with rfl | rfl
  · exact .noQuery addr hi
  · exact .query addr hi

/-- A querying operation answers in the state it is given or after its one query (R27, R203). -/
theorem exec_of_queries {i : Instr} {addr : Address} (hi : i.queries = some addr) (s : State) :
    ∃ u resp, exec i s = .next (u.respond resp) ∧ ExecEffect i s u := by
  cases i with
  | buildCw =>
    cases hi
    exact answer_queryEffect rfl (buildWord_state _ _ _ s) _
  | encode cw =>
    cases cw with
    | word v => cases hi
    | auto =>
      cases hi
      exact answer_queryEffect rfl ((encodeFrame_state _ _ _ _ _ s).imp_right And.right) _
  | encActivate | encDeactivate | encGoto | encFadeStart | encFadeStop | encBlink | encReportState =>
    cases hi
    exact answer_queryEffect rfl (encodeCommand_state _ _ _ _ s) _
  | _ => cases hi

/-- REGISTER answers after recording whether it added its handler (R106). -/
theorem exec_register_effect (code : Byte) (h : Handler) (s : State) :
    ∃ u resp, exec (.register code h) s = .next (u.respond resp) ∧ ExecEffect (.register code h) s u := by
  by_cases hmem : h ∈ s.handlers code
  · exact ⟨_, _, if_pos hmem, .registerKnown code h rfl hmem⟩
  · exact ⟨_, _, if_neg hmem, .registerNew code h rfl hmem⟩

/-- Everything an operation can do: it never stops the machine, it gives one response, and the rest of its next state is
one of `ExecEffect`'s. -/
theorem exec_spec (i : Instr) (s : State) : ∃ u resp, exec i s = .next (u.respond resp) ∧ ExecEffect i s u := by
  rcases instr_kinds i with hpure | ⟨addr, hquery⟩ | ⟨code, h, rfl⟩ | ⟨msg, rfl⟩
  · obtain ⟨resp, h⟩ := exec_of_isPure hpure s
    exact ⟨s, resp, h, .pure hpure⟩
  · exact exec_of_queries hquery s
  · exact exec_register_effect code h s
  · exact ⟨_, _, rfl, .dispatch msg rfl⟩

/-- No operation writes the parameters. -/
theorem ExecEffect.params_eq {i : Instr} {s u : State} (h : ExecEffect i s u) : u.params = s.params := by
  cases h with
  | pure | noQuery => rfl
  | query => exact State.query_params ..
  | registerKnown | dispatch => exact State.record_params ..
  | registerNew => simp

/-- A request that decodes to an operation is served by running it (R80). -/
theorem serveRequest_of_decode_ok {r : Request} {i : Instr} (h : decodeRequest r = .ok i) (s : State) :
    serveRequest r s = exec i s := by simp [serveRequest, h]

/-- A request that decodes to no operation is answered by IllegalOp (R81). -/
theorem serveRequest_of_decode_error {r : Request} {op : Byte} (h : decodeRequest r = .error (.illegalOp op))
    (s : State) : serveRequest r s = .next (s.respond (.fault (.illegalOp op))) := by simp [serveRequest, h]

/-- Everything a step can do: nothing where the host has no request left, present the host's next request, run the
operation that the request on the port decodes to, or answer it with IllegalOp (R9, R80, R81, R230). -/
theorem step_spec (s : State) :
    (s.request = none ∧ s.pending = [] ∧ step s = .next s) ∨
      (∃ r rest, s.request = none ∧ s.pending = r :: rest ∧ step s = .next (s.present r rest)) ∨
      (∃ r i u resp, s.request = some r ∧ decodeRequest r = .ok i ∧ ExecEffect i s.takeRequest u ∧
        step s = .next (u.respond resp)) ∨
      (∃ r op, s.request = some r ∧ decodeRequest r = .error (.illegalOp op) ∧
        step s = .next (s.takeRequest.respond (.fault (.illegalOp op)))) := by
  cases hreq : s.request with
  | none =>
    rw [step_of_idle hreq]
    cases hpend : s.pending with
    | nil => exact .inl ⟨rfl, rfl, by simp [hostTurn, hpend]⟩
    | cons r rest => exact .inr (.inl ⟨r, rest, rfl, rfl, by simp [hostTurn, hpend]⟩)
  | some r =>
    rw [step_of_request hreq]
    cases hdec : decodeRequest r with
    | ok i =>
      obtain ⟨u, resp, hexec, heff⟩ := exec_spec i s.takeRequest
      exact .inr (.inr (.inl ⟨r, i, u, resp, rfl, hdec, heff, (serveRequest_of_decode_ok hdec _).trans hexec⟩))
    | error e =>
      cases e with
      | illegalOp op => exact .inr (.inr (.inr ⟨r, op, rfl, hdec, serveRequest_of_decode_error hdec _⟩))

/-- Settles O40: in each case of `step_spec` the parameters of the next state are those of the state before. -/
theorem parametersNeverChange : Obligations.ParametersNeverChange := by
  intro s t hstep
  rcases step_spec s with ⟨-, -, h⟩ | ⟨r, rest, -, -, h⟩ | ⟨r, i, u, resp, -, -, heff, h⟩ | ⟨r, op, -, -, h⟩ <;>
    rw [h] at hstep <;> cases hstep
  · rfl
  · exact State.present_params ..
  · exact heff.params_eq
  · exact State.respond_params ..

/-- Settles O27: the step serves the request, and serving it runs the operation it decodes to. -/
theorem stepRunsTheDecodedRequest : Obligations.StepRunsTheDecodedRequest := by
  intro s r i hreq hdec _
  calc step s = serveRequest r s.takeRequest := step_of_request hreq
    _ = exec i s.takeRequest := serveRequest_of_decode_ok hdec _

end Sys2Proof.Machine
end

section
/-! PROOFS. The family 10_state: the frames of the operations on REG, HIST and the source (R25 to R30), the types of
their results (R31), the invariant of the block and its state after reset (R32). -/

namespace Sys2Proof.Machine

/-! ### The history, one event longer -/

@[simp] theorem addedFor_append (code : Byte) (hist more : List Event) :
    addedFor code (hist ++ more) = addedFor code hist ++ addedFor code more := by
  induction hist with
  | nil => rfl
  | cons e rest ih =>
    cases e with
    | registered c h added => by_cases hadd : c = code ∧ added = true <;> simp [addedFor, hadd, ih]
    | txQuery | dispatched => exact ih

@[simp] theorem queryCount_append (hist more : List Event) :
    queryCount (hist ++ more) = queryCount hist + queryCount more := by
  induction hist with
  | nil => simp [queryCount]
  | cons e rest ih =>
    cases e with
    | txQuery => simp only [List.cons_append, queryCount, ih]; omega
    | registered | dispatched => exact ih

/-- A consistent history stays one when it grows by an event that follows from it. -/
theorem historyConsistent.append_singleton {hist : List Event} {e : Event} (hcons : historyConsistent hist)
    (hfollows : e.follows hist) : historyConsistent (hist ++ [e]) := by
  intro before x after heq
  rcases List.eq_nil_or_concat after with rfl | ⟨after, last, rfl⟩
  · obtain ⟨rfl, hx⟩ := List.append_inj' heq rfl
    cases hx
    exact hfollows
  · have hsplit : hist ++ [e] = (before ++ x :: after) ++ [last] := by simpa using heq
    exact hcons before x after (List.append_inj' hsplit rfl).1

/-! ### The invariant -/

/-- The invariant speaks of REG, HIST, the source's count and the parameters only. -/
theorem State.Inv.of_eq {s t : State} (hs : s.Inv) (hreg : t.reg = s.reg) (hhist : t.hist = s.hist)
    (hdraws : t.txDraws = s.txDraws) (hparams : t.params = s.params) : t.Inv where
  registryWf := hreg ▸ hs.registryWf
  registryHist code := by
    rw [State.handlers, hreg, hhist]
    exact hs.registryHist code
  history := hhist ▸ hs.history
  queries := by
    rw [hhist, hdraws]
    exact hs.queries
  codes := hparams ▸ hs.codes

/-- The invariant is kept where HIST grows by one event that follows from it, REG by the handlers that event registered,
and the source's count by at least the event's queries. -/
theorem State.Inv.of_event {s t : State} (hs : s.Inv) (e : Event) (hhist : t.hist = s.hist ++ [e])
    (hfollows : e.follows s.hist) (hwf : Registry.wf t.reg = true)
    (hhandlers : ∀ code, t.handlers code = s.handlers code ++ addedFor code [e])
    (hdraws : s.txDraws + queryCount [e] ≤ t.txDraws) (hparams : t.params = s.params) : t.Inv where
  registryWf := hwf
  registryHist code := by rw [hhandlers, hhist, addedFor_append, hs.registryHist]
  history := hhist ▸ hs.history.append_singleton hfollows
  queries := by
    have := hs.queries
    rw [hhist, queryCount_append]
    omega
  codes := hparams ▸ hs.codes

theorem State.Inv.query {s : State} (hs : s.Inv) (networkId targetId : Byte) : (s.query networkId targetId).Inv :=
  hs.of_event _ rfl trivial hs.registryWf (fun _ => (List.append_nil _).symm) le_rfl rfl

/-- A DISPATCH records the handlers REG holds, which are those HIST registered (R51, R108). -/
theorem State.Inv.record_dispatched {s : State} (hs : s.Inv) (code : Byte) :
    (s.record (.dispatched code (s.handlers code))).Inv :=
  hs.of_event _ rfl (hs.registryHist code) hs.registryWf (fun _ => (List.append_nil _).symm) le_rfl rfl

/-- A REGISTER of a handler REG already holds records that it added none (R106). -/
theorem State.Inv.record_known {s : State} (hs : s.Inv) {code : Byte} {h : Handler} (hmem : h ∈ s.handlers code) :
    (s.record (.registered code h false)).Inv := by
  have hfollows : Event.follows s.hist (.registered code h false) := by
    simpa [Event.follows, ← hs.registryHist code] using hmem
  exact hs.of_event _ rfl hfollows hs.registryWf (fun c => by simp [addedFor]) le_rfl rfl

/-- A REGISTER of a handler REG does not hold appends it and records that it did (R106). -/
theorem State.Inv.record_new {s : State} (hs : s.Inv) {code : Byte} {h : Handler} (hmem : h ∉ s.handlers code) :
    ((s.appendHandler code h).record (.registered code h true)).Inv := by
  have hfollows : Event.follows s.hist (.registered code h true) := by
    simpa [Event.follows, ← hs.registryHist code] using hmem
  have hnodup : (s.handlers code ++ [h]).Nodup :=
    List.nodup_append_comm.1 (List.nodup_cons.2 ⟨hmem, Registry.get_nodup hs.registryWf code⟩)
  have hwf : Registry.wf (s.appendHandler code h).reg = true := Registry.put_wf code hs.registryWf (by simp) hnodup
  refine hs.of_event _ rfl hfollows hwf (fun c => ?_) le_rfl rfl
  by_cases hc : c = code
  · subst hc
    simp [addedFor]
  · simp [addedFor, Ne.symm hc, State.appendHandler_handlers_other s h hc]

/-- Every operation keeps the invariant. -/
theorem ExecEffect.inv {i : Instr} {s u : State} (heff : ExecEffect i s u) (hs : s.Inv) : u.Inv := by
  cases heff with
  | pure | noQuery => exact hs
  | query addr => exact hs.query ..
  | registerKnown _ _ _ hmem => exact hs.record_known hmem
  | registerNew _ _ _ hmem => exact hs.record_new hmem
  | dispatch msg => exact hs.record_dispatched msg.msgId

theorem State.Inv.respond {s : State} (hs : s.Inv) (resp : Response) : (s.respond resp).Inv :=
  hs.of_eq rfl rfl rfl rfl

theorem State.Inv.takeRequest {s : State} (hs : s.Inv) : s.takeRequest.Inv := hs.of_eq rfl rfl rfl rfl

theorem State.Inv.present {s : State} (hs : s.Inv) (r : Request) (rest : List Request) : (s.present r rest).Inv :=
  hs.of_eq rfl rfl rfl rfl

/-- Settles O41: each case of `step_spec` is made of updates that keep the invariant. -/
theorem stepKeepsTheInvariant : Obligations.StepKeepsTheInvariant := by
  intro s t hs hstep
  rcases step_spec s with ⟨-, -, h⟩ | ⟨r, rest, -, -, h⟩ | ⟨r, i, u, resp, -, -, heff, h⟩ | ⟨r, op, -, -, h⟩ <;>
    rw [h] at hstep <;> cases hstep
  · exact hs
  · exact hs.present r rest
  · exact (heff.inv hs.takeRequest).respond resp
  · exact hs.takeRequest.respond _

/-- The default command codes of R72 are nine different bytes. -/
theorem cmdCodesInjective_default : cmdCodesInjective defaultCmdCodes = true := by decide

/-- Settles O42: REG and HIST are empty after reset, and the default CMD_CODE is injective. -/
theorem resetMeetsTheInvariant : Obligations.ResetMeetsTheInvariant where
  registryWf := rfl
  registryHist _ := rfl
  history before _ _ h := absurd h (by simp [State.reset])
  queries := le_rfl
  codes := cmdCodesInjective_default

/-! ### The frames of the operations -/

/-- What an operation's next state is, by `exec_spec`: one of `ExecEffect`'s with a response on its port. -/
theorem exec_next_effect {i : Instr} {s t : State} (hexec : exec i s = .next t) :
    ∃ u resp, t = u.respond resp ∧ ExecEffect i s u := by
  obtain ⟨u, resp, h, heff⟩ := exec_spec i s
  rw [h] at hexec
  cases hexec
  exact ⟨u, resp, rfl, heff⟩

/-- Appending a handler keeps every code's list at the head of the list after (R30). -/
theorem State.handlers_prefix_appendHandler (s : State) (code c : Byte) (h : Handler) :
    s.handlers c <+: (s.appendHandler code h).handlers c := by
  by_cases hc : c = code
  · subst hc
    simp
  · rw [State.appendHandler_handlers_other s h hc]

/-- Settles O37: of `ExecEffect`'s cases only the REGISTER of a new handler writes REG, and it appends. -/
theorem onlyRegisterWritesTheRegistry : Obligations.OnlyRegisterWritesTheRegistry := by
  intro i s t hexec
  obtain ⟨u, resp, rfl, heff⟩ := exec_next_effect hexec
  cases heff with
  | registerNew code h hi => exact ⟨.inr ⟨code, h, hi⟩, fun c => s.handlers_prefix_appendHandler code c h⟩
  | pure | noQuery | query | registerKnown | dispatch => exact ⟨.inl rfl, fun _ => List.prefix_rfl⟩

/-- Settles O38: each of `ExecEffect`'s cases leaves HIST alone or records the event of its own operation. -/
theorem historyGrowsByTheOperationsEvent : Obligations.HistoryGrowsByTheOperationsEvent := by
  intro i s t hexec
  obtain ⟨u, resp, rfl, heff⟩ := exec_next_effect hexec
  cases heff with
  | pure | noQuery => exact .inl rfl
  | query addr hi => exact .inr ⟨_, rfl, addr, hi, rfl, rfl⟩
  | registerKnown _ _ hi | registerNew _ _ hi => exact .inr ⟨_, rfl, hi⟩
  | dispatch msg hi => exact .inr ⟨_, rfl, msg, hi, rfl⟩

/-! ### The types of the results -/

/-- An answer that is Ok is the result of the computation, and it drives no INVOKE list (R22). -/
theorem answer_map_ok {α : Type} {f : α → Result} {e : Except BlockFault α} {s t : State} {r : Result}
    {hs : Option (List Handler)} (hans : answer s (e.map f) = .next t) (hresp : t.response = some (.ok r hs)) :
    ∃ x, e = .ok x ∧ r = f x ∧ hs = none := by
  cases e with
  | error fault =>
    cases hans
    cases hresp
  | ok x =>
    cases hans
    cases hresp
    exact ⟨x, rfl, rfl, rfl⟩

/-- Each form of the level/rate payload has 1 to 3 bytes (R69). -/
theorem levelBytes_length {addr : Address} {level rate : Int} {bs : Bytes} (h : levelBytes addr level rate = .ok bs) :
    1 ≤ bs.length ∧ bs.length ≤ 3 := by
  unfold levelBytes at h
  split at h
  · cases h
  · dsimp only at h
    split at h
    · split at h <;> cases h
      simp
    · split at h <;> cases h <;> simp

theorem exec_register_response {code : Byte} {h : Handler} {s t : State} (hexec : exec (.register code h) s = .next t) :
    t.response = some (.ok .unit none) := by
  by_cases hmem : h ∈ s.handlers code
  · cases (if_pos hmem).symm.trans hexec
    rfl
  · cases (if_neg hmem).symm.trans hexec
    rfl

/-- Settles O32: every operation but REGISTER and DISPATCH answers with a value of one result type and no INVOKE
list. -/
theorem resultsHaveTheirType : Obligations.ResultsHaveTheirType := by
  intro i s t r hs hexec hresp
  cases i with
  | register code h =>
    cases (exec_register_response hexec).symm.trans hresp
    exact ⟨rfl, by simp⟩
  | dispatch msg =>
    cases hexec
    cases hresp
    exact ⟨⟨_, _, _, rfl, by omega, by omega⟩, by simp⟩
  | levelPayload addr level rate =>
    obtain ⟨bs, hbytes, rfl, rfl⟩ := answer_map_ok hexec hresp
    exact ⟨⟨bs, rfl, levelBytes_length hbytes⟩, by simp⟩
  | cksumGen | hexSerialize =>
    cases hexec
    cases hresp
    exact ⟨⟨_, rfl⟩, by simp⟩
  | unpackCw | decode | cksumVerify | buildCw | encode | hexParse | encActivate | encDeactivate | encGoto
  | encFadeStart | encFadeStop | encBlink | encReportState | incTx =>
    obtain ⟨x, -, rfl, rfl⟩ := answer_map_ok hexec hresp
    exact ⟨⟨x, rfl⟩, by simp⟩

/-! ### The query of the encoders -/

/-- What an encoder's computation makes of the state: one query for the address's ids, or none where it faulted
before it (R27, R204). -/
def QueriedOrFaulted {α : Type} (addr : Address) (s : State) (out : State × Except BlockFault α) : Prop :=
  out.1 = s.query addr.networkId addr.targetId ∨ (out.1 = s ∧ ∃ f, out.2 = .error f)

theorem buildWord_queriedOrFaulted (addr : Address) (rep ack : Int) (s : State) :
    QueriedOrFaulted addr s (buildWord addr rep ack s) := by
  rcases buildWord_spec addr rep ack s with ⟨f, -, h⟩ | ⟨-, -, h⟩ | ⟨-, -, h⟩ <;> rw [h]
  · exact .inr ⟨rfl, f, rfl⟩
  · exact .inl rfl
  · exact .inl rfl

theorem encodeFrame_auto_queriedOrFaulted (addr : Address) (src cmd : Int) (payload : Bytes) (s : State) :
    QueriedOrFaulted addr s (encodeFrame .auto addr src cmd payload s) := by
  have hword : QueriedOrFaulted addr s (encodeWord .auto addr s) := buildWord_queriedOrFaulted addr 0 0 s
  unfold encodeFrame
  split
  · exact .inr ⟨rfl, _, rfl⟩
  · split
    · next heq =>
      rw [heq] at hword
      exact hword.imp id fun ⟨hstate, _⟩ => ⟨hstate, _, rfl⟩
    · next heq =>
      rw [heq] at hword
      exact .inl (hword.resolve_right fun ⟨_, _, hfault⟩ => nomatch hfault)

theorem encodeCommand_queriedOrFaulted (name : Command) (addr : Address) (src : Int)
    (payload : Except BlockFault Bytes) (s : State) :
    QueriedOrFaulted addr s (encodeCommand name addr src payload s) := by
  cases payload with
  | error f => exact .inr ⟨rfl, f, rfl⟩
  | ok p => exact encodeFrame_auto_queriedOrFaulted addr src _ p s

/-- What `Obligations.EncodersQueryExactlyOnce` says of the answer to such a computation. -/
theorem QueriedOrFaulted.frame_of_answer {α : Type} {addr : Address} {s t : State}
    {out : State × Except BlockFault α} (hout : QueriedOrFaulted addr s out) (f : α → Result)
    (hans : answer out.1 (out.2.map f) = .next t) :
    t.response ≠ none ∧
      (t = { s.afterQuery addr (s.nextTxAnswer addr.networkId addr.targetId) with response := t.response } ∨
        (t = { s with response := t.response } ∧ t.status = some .fault)) := by
  obtain ⟨u, e⟩ := out
  rcases hout with rfl | ⟨rfl, fault, rfl⟩
  · obtain ⟨resp, hnext⟩ := answer_next (s.query addr.networkId addr.targetId) (e.map f)
    cases hnext.symm.trans hans
    exact ⟨nofun, .inl rfl⟩
  · cases hans
    exact ⟨nofun, .inr ⟨rfl, rfl⟩⟩

/-- Settles O36: every querying operation answers a computation that queries once or faults before its query. -/
theorem encodersQueryExactlyOnce : Obligations.EncodersQueryExactlyOnce := by
  intro i addr s t hi hexec
  cases i with
  | buildCw =>
    cases hi
    exact (buildWord_queriedOrFaulted ..).frame_of_answer _ hexec
  | encode cw =>
    cases cw with
    | word v => cases hi
    | auto =>
      cases hi
      exact (encodeFrame_auto_queriedOrFaulted ..).frame_of_answer _ hexec
  | encActivate | encDeactivate | encGoto | encFadeStart | encFadeStop | encBlink | encReportState =>
    cases hi
    exact (encodeCommand_queriedOrFaulted ..).frame_of_answer _ hexec
  | _ => cases hi

/-! ### Two runs on the same REG, source and parameters -/

/-- Two states that an operation cannot tell apart: the same REG, source and parameters (R20, R23, R28). -/
structure State.Alike (s u : State) : Prop where
  reg       : s.reg = u.reg
  txAnswers : s.txAnswers = u.txAnswers
  txDraws   : s.txDraws = u.txDraws
  params    : s.params = u.params

theorem State.Alike.handlers_eq {s u : State} (h : s.Alike u) (code : Byte) : s.handlers code = u.handlers code := by
  rw [State.handlers, State.handlers, h.reg]

theorem State.Alike.nextTxAnswer_eq {s u : State} (h : s.Alike u) (networkId targetId : Byte) :
    s.nextTxAnswer networkId targetId = u.nextTxAnswer networkId targetId := by
  rw [State.nextTxAnswer, State.nextTxAnswer, h.txAnswers, h.txDraws]

/-- From `s` to `t` and from `u` to `w` the same events were recorded, and `t` and `w` are alike. -/
structure SameEffect (s u t w : State) : Prop where
  alike  : t.Alike w
  events : ∃ es : List Event, t.hist = s.hist ++ es ∧ w.hist = u.hist ++ es

theorem State.Alike.sameEffect {s u : State} (h : s.Alike u) : SameEffect s u s u := ⟨h, [], by simp, by simp⟩

theorem State.Alike.sameEffect_query {s u : State} (h : s.Alike u) (networkId targetId : Byte) :
    SameEffect s u (s.query networkId targetId) (u.query networkId targetId) where
  alike := ⟨h.reg, congrArg List.tail h.txAnswers, congrArg (· + 1) h.txDraws, h.params⟩
  events := ⟨_, rfl, by rw [State.query_hist, h.nextTxAnswer_eq]⟩

theorem State.Alike.sameEffect_record {s u : State} (h : s.Alike u) (e : Event) :
    SameEffect s u (s.record e) (u.record e) where
  alike := ⟨h.reg, h.txAnswers, h.txDraws, h.params⟩
  events := ⟨[e], rfl, rfl⟩

theorem State.Alike.sameEffect_append_record {s u : State} (h : s.Alike u) (code : Byte) (hd : Handler) (e : Event) :
    SameEffect s u ((s.appendHandler code hd).record e) ((u.appendHandler code hd).record e) where
  alike :=
    { reg := by simp [h.reg, h.handlers_eq]
      txAnswers := h.txAnswers
      txDraws := h.txDraws
      params := h.params }
  events := ⟨[e], rfl, rfl⟩

/-- Two computations with the same effect and the same outcome. -/
structure SameComputation {α : Type} (s u : State) (out out' : State × Except BlockFault α) : Prop where
  effect  : SameEffect s u out.1 out'.1
  outcome : out.2 = out'.2

theorem State.Alike.sameComputation_buildWord {s u : State} (h : s.Alike u) (addr : Address) (rep ack : Int) :
    SameComputation s u (buildWord addr rep ack s) (buildWord addr rep ack u) := by
  unfold buildWord
  rw [← h.nextTxAnswer_eq]
  split
  · exact ⟨h.sameEffect, rfl⟩
  · dsimp only
    split <;> exact ⟨h.sameEffect_query .., rfl⟩

theorem State.Alike.sameComputation_encodeWord {s u : State} (h : s.Alike u) (cw : CwOperand) (addr : Address) :
    SameComputation s u (encodeWord cw addr s) (encodeWord cw addr u) := by
  cases cw with
  | auto => exact h.sameComputation_buildWord addr 0 0
  | word v => exact ⟨h.sameEffect, rfl⟩

theorem State.Alike.sameComputation_encodeFrame {s u : State} (h : s.Alike u) (cw : CwOperand) (addr : Address)
    (src cmd : Int) (payload : Bytes) :
    SameComputation s u (encodeFrame cw addr src cmd payload s) (encodeFrame cw addr src cmd payload u) := by
  obtain ⟨heffect, houtcome⟩ := h.sameComputation_encodeWord cw addr
  unfold encodeFrame
  split
  · exact ⟨h.sameEffect, rfl⟩
  · rw [← h.params]
    generalize encodeWord cw addr s = out, encodeWord cw addr u = out' at heffect houtcome ⊢
    obtain ⟨t, e⟩ := out
    obtain ⟨w, e'⟩ := out'
    cases houtcome
    cases e <;> exact ⟨heffect, rfl⟩

theorem State.Alike.sameComputation_encodeCommand {s u : State} (h : s.Alike u) (name : Command) (addr : Address)
    (src : Int) (payload : Except BlockFault Bytes) :
    SameComputation s u (encodeCommand name addr src payload s) (encodeCommand name addr src payload u) := by
  cases payload with
  | error f => exact ⟨h.sameEffect, rfl⟩
  | ok p =>
    rw [encodeCommand, encodeCommand, ← h.params]
    exact h.sameComputation_encodeFrame ..

/-- Two next states with the same response, made by the same effect. -/
def SameAnswer (s u t w : State) : Prop := t.response = w.response ∧ SameEffect s u t w

theorem SameEffect.sameAnswer_respond {s u t w : State} (h : SameEffect s u t w) (resp : Response) :
    SameAnswer s u (t.respond resp) (w.respond resp) :=
  ⟨rfl, ⟨h.alike.reg, h.alike.txAnswers, h.alike.txDraws, h.alike.params⟩, h.events⟩

/-- The response an outcome gets is the same in every state. -/
theorem answer_response_uniform (e : Except BlockFault Result) :
    ∃ resp, ∀ s, answer s e = .next (s.respond resp) := by
  cases e with
  | ok r => exact ⟨_, fun s => answer_ok s r⟩
  | error f => exact ⟨_, fun s => answer_error s f⟩

/-- The answers to two computations with the same effect and outcome are the same. -/
theorem SameComputation.sameAnswer {α : Type} {s u t w : State} {out out' : State × Except BlockFault α}
    (h : SameComputation s u out out') {f : α → Result} (ht : answer out.1 (out.2.map f) = .next t)
    (hw : answer out'.1 (out'.2.map f) = .next w) : SameAnswer s u t w := by
  obtain ⟨resp, hresp⟩ := answer_response_uniform (out.2.map f)
  rw [hresp] at ht
  rw [← h.outcome, hresp] at hw
  cases ht
  cases hw
  exact h.effect.sameAnswer_respond resp

/-- An answer computed from the operands alone is the same in states that are alike. -/
theorem State.Alike.sameAnswer_of_answer {α : Type} {s u t w : State} (h : s.Alike u) (e : Except BlockFault α)
    {f : α → Result} (ht : answer s (e.map f) = .next t) (hw : answer u (e.map f) = .next w) : SameAnswer s u t w :=
  SameComputation.sameAnswer (out := (s, e)) (out' := (u, e)) ⟨h.sameEffect, rfl⟩ ht hw

theorem State.Alike.sameAnswer_register {s u t w : State} (h : s.Alike u) {code : Byte} {hd : Handler}
    (ht : exec (.register code hd) s = .next t) (hw : exec (.register code hd) u = .next w) : SameAnswer s u t w := by
  by_cases hmem : hd ∈ s.handlers code
  · cases (if_pos hmem).symm.trans ht
    cases (if_pos (h.handlers_eq code ▸ hmem)).symm.trans hw
    exact (h.sameEffect_record _).sameAnswer_respond _
  · cases (if_neg hmem).symm.trans ht
    cases (if_neg (h.handlers_eq code ▸ hmem)).symm.trans hw
    exact (h.sameEffect_append_record code hd _).sameAnswer_respond _

theorem State.Alike.sameAnswer_dispatch {s u t w : State} (h : s.Alike u) {msg : DecodedMessage}
    (ht : exec (.dispatch msg) s = .next t) (hw : exec (.dispatch msg) u = .next w) : SameAnswer s u t w := by
  cases ht
  cases hw
  rw [← h.handlers_eq]
  exact (h.sameEffect_record _).sameAnswer_respond _

/-- Settles O39: REGISTER and DISPATCH read REG, the encoders the source and the parameters, and every other operation
its operands alone. -/
theorem answersDependOnlyOnRegistryAndSource : Obligations.AnswersDependOnlyOnRegistryAndSource := by
  intro i s u t w hreg hanswers hdraws hparams ht hw
  have h : s.Alike u := ⟨hreg, hanswers, hdraws, hparams⟩
  have hsame : SameAnswer s u t w := by
    cases i with
    | register => exact h.sameAnswer_register ht hw
    | dispatch => exact h.sameAnswer_dispatch ht hw
    | buildCw => exact (h.sameComputation_buildWord ..).sameAnswer ht hw
    | encode => exact (h.sameComputation_encodeFrame ..).sameAnswer ht hw
    | encActivate | encDeactivate | encGoto | encFadeStart | encFadeStop | encBlink | encReportState =>
      exact (h.sameComputation_encodeCommand ..).sameAnswer ht hw
    | cksumGen frame => exact h.sameAnswer_of_answer (f := .byte) (.ok (checksum frame)) ht hw
    | hexSerialize frame => exact h.sameAnswer_of_answer (f := .hex) (.ok (hexOf frame)) ht hw
    | unpackCw | decode | cksumVerify | hexParse | levelPayload | incTx => exact h.sameAnswer_of_answer _ ht hw
  obtain ⟨hresponse, halike, hevents⟩ := hsame
  exact ⟨hresponse, halike.reg, halike.txAnswers, halike.txDraws, hevents⟩

/-! ### The host's turn and the state after reset -/

/-- Settles O29: with no request on the port the step is the host's turn, which presents the list's first request. -/
theorem idleStepIsTheHostsTurn : Obligations.IdleStepIsTheHostsTurn := by
  refine ⟨fun s r rest hidle hpend => ?_, fun s hidle hpend => ?_⟩
  · calc step s = hostTurn s := step_of_idle hidle
      _ = .next (s.present r rest) := by simp [hostTurn, hpend]
  · calc step s = hostTurn s := step_of_idle hidle
      _ = .next s := by simp [hostTurn, hpend]

/-- Settles O44: every field of `State.reset` that R32 names is written out in its definition. -/
theorem resetLeavesTheBlockIdle : Obligations.ResetLeavesTheBlockIdle :=
  ⟨rfl, rfl, rfl, rfl, rfl, rfl, rfl, fun _ => rfl, rfl⟩

end Sys2Proof.Machine
end

section
/-! PROOFS. The family 20_memory: REGISTER and what a later REGISTER or DISPATCH sees of it (R49 (a), R51), the hex
string HEX_SERIALIZE writes (R45), and the frame of the pure operations (R48, R49). -/

namespace Sys2Proof.Machine

/-! ### REGISTER, and what comes after it -/

/-- REGISTER of a handler its code already has records the event and leaves REG alone (R106). -/
theorem exec_register_known {code : Byte} {h : Handler} {s : State} (hmem : h ∈ s.handlers code) :
    exec (.register code h) s = .next ((s.record (.registered code h false)).respond (.ok .unit none)) := if_pos hmem

/-- REGISTER of a handler its code does not have appends it and records the event (R106). -/
theorem exec_register_new {code : Byte} {h : Handler} {s : State} (hmem : h ∉ s.handlers code) :
    exec (.register code h) s =
      .next (((s.appendHandler code h).record (.registered code h true)).respond (.ok .unit none)) := if_neg hmem

/-- The list of every code after a REGISTER (R106, R107). -/
theorem exec_register_handlers {code : Byte} {h : Handler} {s t : State} (hexec : exec (.register code h) s = .next t)
    (c : Byte) :
    t.handlers c = if c = code ∧ h ∉ s.handlers code then s.handlers code ++ [h] else s.handlers c := by
  by_cases hmem : h ∈ s.handlers code
  · cases (exec_register_known hmem).symm.trans hexec
    simp [hmem]
  · cases (exec_register_new hmem).symm.trans hexec
    by_cases hc : c = code
    · subst hc
      simp [hmem]
    · simp [hc, State.appendHandler_handlers_other s h hc]

/-- After a REGISTER its code has its handler, whether it was there before or not. -/
theorem mem_handlers_of_exec_register {code : Byte} {h : Handler} {s t : State}
    (hexec : exec (.register code h) s = .next t) : h ∈ t.handlers code := by
  rw [exec_register_handlers hexec]
  by_cases hmem : h ∈ s.handlers code <;> simp [hmem]

/-- Settles O5: the first REGISTER leaves its handler in REG, so the second one is the REGISTER of a known handler. -/
theorem registerAgainIsNoOp : Obligations.RegisterAgainIsNoOp := by
  intro code h s
  obtain ⟨_, _, hexec, -⟩ := exec_register_effect code h s
  have hagain := exec_register_known (mem_handlers_of_exec_register hexec)
  exact ⟨_, _, hexec, hagain, rfl, rfl, (exec_register_response hexec).symm⟩

/-- Settles O7: DISPATCH puts the list of its message's code on INVOKE, and `exec_register_handlers` is that list after
a REGISTER. -/
theorem dispatchSeesEarlierRegister : Obligations.DispatchSeesEarlierRegister := by
  intro code h msg s
  obtain ⟨_, _, hexec, -⟩ := exec_register_effect code h s
  exact ⟨_, _, hexec, rfl, congrArg some (exec_register_handlers hexec msg.msgId)⟩

/-! ### The digits HEX_SERIALIZE writes -/

/-- `hexChar` writes the uppercase digits of R13 in order. -/
theorem uppercaseDigits_getElem? : ∀ d : Nibble, "0123456789ABCDEF".toList[d.toNat]? = some (hexChar d) := by decide

theorem highNibble_toNat (b : Byte) : (b.extractLsb' 4 4).toNat = b.toNat / 16 := by
  have := b.isLt
  simp only [BitVec.extractLsb'_toNat, Nat.shiftRight_eq_div_pow]
  omega

theorem lowNibble_toNat (b : Byte) : (b.extractLsb' 0 4).toNat = b.toNat % 16 := by simp

/-- The characters `2k` and `2k + 1` of a hex string are the digits of byte `k`, the high one first (R45). -/
theorem hexOf_getElem? {s : Bytes} {k : Nat} {b : Byte} (hb : s[k]? = some b) :
    (hexOf s)[2 * k]? = some (hexChar (b.extractLsb' 4 4)) ∧
      (hexOf s)[2 * k + 1]? = some (hexChar (b.extractLsb' 0 4)) := by
  induction s generalizing k with
  | nil => simp at hb
  | cons a s ih =>
    cases k with
    | zero =>
      cases hb
      exact ⟨rfl, rfl⟩
    | succ k => exact ih hb

/-- Settles O17: HEX_SERIALIZE answers `hexOf`, whose characters are the digits of the bytes' nibbles. -/
theorem hexSerializeWritesUppercaseDigits : Obligations.HexSerializeWritesUppercaseDigits := by
  refine ⟨fun _ => rfl, fun frame s => ⟨hexOf frame, rfl, hexOf_length frame, fun k b hb => ?_⟩⟩
  obtain ⟨hhigh, hlow⟩ := hexOf_getElem? hb
  rw [hhigh, hlow, ← highNibble_toNat, ← lowNibble_toNat]
  exact ⟨(uppercaseDigits_getElem? _).symm, (uppercaseDigits_getElem? _).symm⟩

/-! ### The frame of the pure operations -/

/-- Settles O35: by `exec_of_isPure` a pure operation's next state is the state before with a response on its port. -/
theorem pureOperationsChangeOnlyTheResponse : Obligations.PureOperationsChangeOnlyTheResponse := by
  intro i s t hpure hexec
  obtain ⟨resp, hnext⟩ := exec_of_isPure hpure s
  cases hnext.symm.trans hexec
  exact ⟨nofun, rfl⟩

end Sys2Proof.Machine
end

section
/-! PROOFS. The family 30_encoding: the requests and their operations (R80 to R82), programs of requests (R86), the
control word's fields and its reserved bit (R63, R64), and the level/rate payload (R69). -/

namespace Sys2Proof.Machine

/-! ### Requests and operations -/

/-- Everything the decoder can do: below 0x13 it gives an operation of the request's OP value, from there on it refuses
that value (R80, R81). -/
theorem decodeRequest_spec (r : Request) :
    (r.op.toNat < 0x13 ∧ ∃ i, decodeRequest r = .ok i ∧ opCode i = r.op) ∨
      (0x13 ≤ r.op.toNat ∧ decodeRequest r = .error (.illegalOp r.op)) := by
  unfold decodeRequest
  split
  case h_20 => exact .inr ⟨by simp only [imp_false] at *; omega, rfl⟩
  all_goals
    rename_i hop
    exact .inl ⟨by omega, _, rfl, BitVec.eq_of_toNat_eq hop.symm⟩

theorem opCode_of_decodeRequest_ok {r : Request} {i : Instr} (h : decodeRequest r = .ok i) : opCode i = r.op := by
  rcases decodeRequest_spec r with ⟨-, j, hj, hop⟩ | ⟨-, herr⟩
  · cases hj.symm.trans h
    exact hop
  · cases herr.symm.trans h

theorem decodeRequest_eq_illegalOp_iff (r : Request) :
    decodeRequest r = .error (.illegalOp r.op) ↔ 0x13 ≤ r.op.toNat := by
  rcases decodeRequest_spec r with ⟨hlt, i, hok, -⟩ | ⟨hle, herr⟩
  · simp [hok, hlt]
  · simp [herr, hle]

/-- The request the encoder writes for an operation selects it with all its operands (R80, R82). -/
theorem decodeRequest_encodeRequest (i : Instr) : decodeRequest (encodeRequest i) = .ok i := by
  cases i <;> rfl

theorem encodeRequest_injective : Function.Injective encodeRequest := fun i j h =>
  Except.ok.inj <| calc
    Except.ok i = decodeRequest (encodeRequest i) := (decodeRequest_encodeRequest i).symm
    _ = decodeRequest (encodeRequest j) := congrArg decodeRequest h
    _ = .ok j := decodeRequest_encodeRequest j

/-- Settles O45: `decodeRequest` is a left inverse of `encodeRequest`, and `decodeRequest_spec` says what it gives on
every other request. -/
theorem requestsDecodeAndEncodeAgree : Obligations.RequestsDecodeAndEncodeAgree :=
  ⟨decodeRequest_encodeRequest,
    fun _ i h => ⟨opCode_of_decodeRequest_ok h, (decodeRequest_encodeRequest i).trans h.symm⟩,
    decodeRequest_eq_illegalOp_iff, fun _ _ h => encodeRequest_injective h⟩

/-- Settles O46: the decoder evaluated at each of the words. -/
theorem tableWordsDecode : Obligations.TableWordsDecode := ⟨rfl, rfl, rfl, rfl, rfl, rfl, rfl, rfl⟩

/-- Settles O28: the step serves the request, which decodes to a refusal. -/
theorem unusedOpFaultsIllegalOp : Obligations.UnusedOpFaultsIllegalOp := by
  intro s op a hreq hop
  have hdec : decodeRequest { op := op, args := a } = .error (.illegalOp op) :=
    (decodeRequest_eq_illegalOp_iff _).2 hop
  calc step s = serveRequest { op := op, args := a } s.takeRequest := step_of_request hreq
    _ = .next (s.takeRequest.respond (.fault (.illegalOp op))) := serveRequest_of_decode_error hdec _

/-! ### Programs -/

/-- Every request that is issued gets a response (R9, R200). -/
theorem issue_answered (r : Request) (s : State) : ∃ resp t, issue r s = (some resp, t) := by
  rcases step_spec { s with request := some r } with
    ⟨h, -, -⟩ | ⟨_, _, h, -, -⟩ | ⟨_, _, _, _, -, -, -, hstep⟩ | ⟨_, _, -, -, hstep⟩
  · cases h
  · cases h
  · exact ⟨_, _, by rw [issue, hstep]; rfl⟩
  · exact ⟨_, _, by rw [issue, hstep]; rfl⟩

/-- A program goes on after an Ok response. -/
theorem runProgram_cons_ok {r : Request} {s t : State} {v : Result} {hs : Option (List Handler)}
    (h : issue r s = (some (.ok v hs), t)) (rest : List Request) :
    (runProgram (r :: rest) s).1 = .ok v hs :: (runProgram rest t).1 := by simp [runProgram, h]

/-- A program ends with a fault (R86). -/
theorem runProgram_cons_fault {r : Request} {s t : State} {f : BlockFault} (h : issue r s = (some (.fault f), t))
    (rest : List Request) : (runProgram (r :: rest) s).1 = [.fault f] := by simp [runProgram, h]

theorem runProgram_fault_last (rs : List Request) (s : State) (before after : List Response) (f : BlockFault)
    (h : (runProgram rs s).1 = before ++ .fault f :: after) : after = [] := by
  induction rs generalizing s before with
  | nil => simp [runProgram] at h
  | cons r rest ih =>
    obtain ⟨resp, t, hissue⟩ := issue_answered r s
    cases resp with
    | fault g =>
      rw [runProgram_cons_fault hissue] at h
      cases before with
      | nil => exact (List.cons.inj h).2.symm
      | cons a before => simp at h
    | ok v hs =>
      rw [runProgram_cons_ok hissue] at h
      cases before with
      | nil => cases h
      | cons a before => exact ih t before (List.cons.inj h).2

theorem runProgram_length (rs : List Request) (s : State) (h : ∀ f, Response.fault f ∉ (runProgram rs s).1) :
    (runProgram rs s).1.length = rs.length := by
  induction rs generalizing s with
  | nil => rfl
  | cons r rest ih =>
    obtain ⟨resp, t, hissue⟩ := issue_answered r s
    cases resp with
    | fault g => exact absurd (by simp [runProgram_cons_fault hissue]) (h g)
    | ok v hs =>
      rw [runProgram_cons_ok hissue] at h ⊢
      exact congrArg (· + 1) (ih t fun f hf => h f (List.mem_cons_of_mem _ hf))

/-- Settles O47: by induction over the program, whose first request is answered Ok or ends it with a fault. -/
theorem programStopsAtItsFirstFault : Obligations.ProgramStopsAtItsFirstFault := fun rs s =>
  ⟨runProgram_fault_last rs s, runProgram_length rs s⟩

/-! ### UNPACK_CW and the reserved bit -/

/-- UNPACK_CW of a 16-bit word answers the word's fields (R101). -/
theorem exec_unpackCw_nat {n : Nat} (h : n ≤ 0xFFFF) (s : State) :
    exec (.unpackCw (n : Int)) s = .next (s.respond (.ok (.fields (unpack (BitVec.ofNat 16 n))) none)) := by
  simp [exec, execUnpackCw, unpackOperand, checkWord_nat h, Except.map]

/-- UNPACK_CW of any other integer faults (R101). -/
theorem exec_unpackCw_error {cw : Int} (h : ¬(0 ≤ cw ∧ cw ≤ 0xFFFF)) (s : State) :
    exec (.unpackCw cw) s = .next (s.respond (.fault (.contractViolation .cw cw))) := by
  simp [exec, execUnpackCw, unpackOperand, checkWord_error h, Except.map]

/-- Settles O1: `unpack_spec` reads the fields of the word that the operand is. -/
theorem unpackCwReadsEveryField : Obligations.UnpackCwReadsEveryField := by
  refine ⟨fun _ => rfl, fun n s hn => ⟨_, exec_unpackCw_nat hn s, ?_⟩, fun cw s hcw => ?_⟩
  · have hword : (BitVec.ofNat 16 n).toNat = n := Nat.mod_eq_of_lt (by omega)
    have hfields := unpack_spec (BitVec.ofNat 16 n)
    rwa [hword] at hfields
  · exact exec_unpackCw_error (by omega) s

/-- No field of a control word reads bit 7 (R63). -/
theorem unpack_xor_reserved (c : ControlWord) : unpack (c ^^^ 0x80#16) = unpack c := by
  have hfield : ∀ lo w, (0x80#16).extractLsb' lo w = 0#w → (c ^^^ 0x80#16).extractLsb' lo w = c.extractLsb' lo w := by
    intro lo w h
    rw [BitVec.extractLsb'_xor, h, BitVec.xor_zero]
  simp [unpack, hfield]

/-- A frame's control word is its first two bytes put together (R42, R60). -/
theorem ofNat_header (b0 b1 : Byte) : BitVec.ofNat 16 (b0.toNat * 256 + b1.toNat) = (b0 ++ b1 : BitVec 16) := by
  apply BitVec.eq_of_toNat_eq
  have := b0.isLt
  have := b1.isLt
  rw [BitVec.toNat_append, ← Nat.shiftLeft_add_eq_or_of_lt b1.isLt, Nat.shiftLeft_eq, BitVec.toNat_ofNat]
  omega

/-- Two frames that differ in the reserved bit alone parse alike (R63). -/
theorem parseFrame_xor_reserved (b0 b1 net dest src code : Byte) (data : Bytes) :
    parseFrame (b0 :: (b1 ^^^ 0x80) :: net :: dest :: src :: code :: data) =
      parseFrame (b0 :: b1 :: net :: dest :: src :: code :: data) := by
  have hword : (b0 ++ (b1 ^^^ 0x80) : BitVec 16) = (b0 ++ b1) ^^^ 0x80#16 := by
    rw [show (0x80#16) = 0#8 ++ 0x80#8 from rfl, BitVec.xor_append, BitVec.xor_zero]
    rfl
  have hfields : unpack (b0 ++ (b1 ^^^ 0x80)) = unpack (b0 ++ b1) := by
    rw [hword]
    exact unpack_xor_reserved (b0 ++ b1)
  simp only [parseFrame_cons, ofNat_header, hfields]

theorem State.response_of_result {t : State} {r : Result} (h : t.result = some r) :
    ∃ hs, t.response = some (.ok r hs) := by
  unfold State.result at h
  split at h <;> cases h
  exact ⟨_, ‹_›⟩

/-- An answer whose RESULT port shows a value is the result of the computation. -/
theorem answer_map_result {α : Type} {f : α → Result} {e : Except BlockFault α} {s t : State} {r : Result}
    (hans : answer s (e.map f) = .next t) (hres : t.result = some r) : ∃ x, e = .ok x ∧ r = f x := by
  obtain ⟨hs, hresp⟩ := State.response_of_result hres
  obtain ⟨x, he, hr, -⟩ := answer_map_ok hans hresp
  exact ⟨x, he, hr⟩

/-- The operands BUILD_CW's checks let pass (R130). -/
theorem buildCwChecks_range {addr : Address} {rep ack : Int} (h : buildCwChecks addr rep ack = .ok ()) :
    (0 ≤ rep ∧ rep ≤ 3) ∧ 0 ≤ ack ∧ ack ≤ 7 := by
  unfold buildCwChecks at h
  split at h
  · cases h
  · by_cases hrep : 0 ≤ rep ∧ rep ≤ 3
    · by_cases hack : 0 ≤ ack ∧ ack ≤ 7
      · exact ⟨hrep, hack⟩
      · simp [checkContract_ok .repeaterReq hrep, checkContract_error .ackReq hack] at h
    · simp [checkContract_error .repeaterReq hrep] at h

/-- BUILD_CW writes 0 into the reserved bit (R63, R132). -/
theorem packWord_reserved (link : Bool) {rep ack v : Int} (hr : 0 ≤ rep ∧ rep ≤ 3) (ha : 0 ≤ ack ∧ ack ≤ 7)
    (hv : 1 ≤ v ∧ v ≤ 4) : (packWord link rep ack v).getLsbD 7 = false := by
  lift rep to Nat using hr.1
  lift ack to Nat using ha.1
  lift v to Nat using by omega
  have hnat := packWord_toNat link (rep := rep) (ack := ack) (v := v) (by omega) (by omega) (by omega) (by omega)
  rw [BitVec.getLsbD, hnat, Nat.testBit_eq_decide_div_mod_eq]
  cases link <;> simp <;> omega

theorem buildWord_reserved {addr : Address} {rep ack : Int} {s : State} {w : ControlWord}
    (h : (buildWord addr rep ack s).2 = .ok w) : w.getLsbD 7 = false := by
  rcases buildWord_spec addr rep ack s with ⟨f, -, hout⟩ | ⟨-, -, hout⟩ | ⟨hchecks, hv, hout⟩ <;>
    rw [hout] at h <;> cases h
  obtain ⟨hrep, hack⟩ := buildCwChecks_range hchecks
  exact packWord_reserved addr.isLink hrep hack hv

/-- The length merge leaves the control word's low byte alone (R138). -/
theorem mergeLen_getLsbD_low (mode : LenMerge) (c : ControlWord) (total : Nat) {k : Nat} (hk : k < 8) :
    (mergeLen mode c total).getLsbD k = c.getLsbD k := by
  have hmask : ∀ k : Fin 8, (0xE0FF#16).getLsbD k = true := by decide
  have hmask := hmask ⟨k, hk⟩
  cases mode with
  | replace => simp [mergeLen, hk, hmask]
  | or => simp [mergeLen, hk]

/-- A frame that ENCODE gives has the low byte of its merged control word at index 1 (R60, R138). -/
theorem finishFrame_lowByte {mode : LenMerge} {c : ControlWord} {addr : Address} {src cmd : Byte} {payload : Bytes}
    {text : Hex} (h : finishFrame mode c addr src cmd payload = .ok text) :
    ∃ bs, unhex text = .ok bs ∧ bs[1]? = some (BitVec.ofNat 8 (mergeLen mode c (7 + payload.length)).toNat) := by
  by_cases hlen : payload.length ≤ 24
  · cases (finishFrame_ok hlen).symm.trans h
    refine ⟨_, unhex_hexOf _, ?_⟩
    rw [assembleFrame_eq, sealFrame_append]
    rfl
  · cases (finishFrame_error (by omega)).symm.trans h

/-- ENCODE of an explicit word gives a frame only where the word has 16 bits; the frame is the finish of that word
(R135). -/
theorem encodeFrame_word_ok {cw : Nat} {addr : Address} {src cmd : Int} {payload : Bytes} {s : State} {text : Hex}
    (h : (encodeFrame (.word (cw : Int)) addr src cmd payload s).2 = .ok text) :
    cw ≤ 0xFFFF ∧ ∃ srcByte cmdByte,
      finishFrame s.params.lenMerge (BitVec.ofNat 16 cw) addr srcByte cmdByte payload = .ok text := by
  unfold encodeFrame at h
  split at h
  · cases h
  · by_cases hcw : cw ≤ 0xFFFF
    · simp only [encodeWord, checkWord_nat hcw] at h
      exact ⟨hcw, _, _, h⟩
    · simp [encodeWord, checkWord_error (v := (cw : Int)) (by omega)] at h

/-- ENCODE of an explicit word passes the reserved bit through (R63). -/
theorem encodeFrame_word_reserved {cw : Nat} {addr : Address} {src cmd : Int} {payload : Bytes} {s : State}
    {text : Hex} (h : (encodeFrame (.word (cw : Int)) addr src cmd payload s).2 = .ok text) :
    ∃ bs low, unhex text = .ok bs ∧ bs[1]? = some low ∧ low.getLsbD 7 = cw.testBit 7 := by
  obtain ⟨-, _, _, hfinish⟩ := encodeFrame_word_ok h
  obtain ⟨bs, hbs, hlow⟩ := finishFrame_lowByte hfinish
  refine ⟨bs, _, hbs, hlow, ?_⟩
  calc (BitVec.ofNat 8 _).getLsbD 7
      = (mergeLen s.params.lenMerge (BitVec.ofNat 16 cw) (7 + payload.length)).getLsbD 7 := by
        rw [BitVec.getLsbD_ofNat]
        rfl
    _ = (BitVec.ofNat 16 cw).getLsbD 7 := mergeLen_getLsbD_low _ _ _ (by decide)
    _ = cw.testBit 7 := BitVec.getLsbD_ofNat 16 cw 7

/-- Sealing a frame leaves every byte but the last alone (R141). -/
theorem sealFrame_getElem? (s : Bytes) {k : Nat} (hk : s.length - 1 ≠ k) : (sealFrame s)[k]? = s[k]? :=
  List.getElem?_set_ne hk

/-- What INC_TX returns is its input, or the frame with the count at index 1 incremented (R170, R173). -/
theorem incrementText_ok {text text' : Hex} (h : incrementText text = .ok text') :
    ∃ bs low, unhex text = .ok bs ∧ 7 ≤ bs.length ∧ bs[1]? = some low ∧
      (text' = text ∨ text' = hexOf (bumpFrame bs low)) := by
  unfold incrementText at h
  split at h
  · cases h
  · rename_i bs hbs
    split at h
    · cases h
    · rename_i hshort
      have hlen : 7 ≤ bs.length := not_lt.1 hshort
      obtain ⟨b0, b1, rest, rfl⟩ : ∃ b0 b1 rest, bs = b0 :: b1 :: rest := by
        match bs, hlen with
        | b0 :: b1 :: rest, _ => exact ⟨b0, b1, rest, rfl⟩
      have hread : memReadByte (b0 :: b1 :: rest) 1 = b1 := by simp [memReadByte, memRead, slice, beValue]
      rw [hread] at h
      refine ⟨_, b1, hbs, hlen, rfl, ?_⟩
      dsimp only at h
      split at h <;> cases h
      · exact .inl rfl
      · exact .inr rfl

/-- The incremented frame has the rewritten low byte at index 1 (R170). -/
theorem bumpFrame_getElem?_one {bs : Bytes} (low : Byte) (hlen : 7 ≤ bs.length) :
    (bumpFrame bs low)[1]? = some (withLowByteTxCount low ((lowByteTxCount low).toNat + 1)) := by
  simp only [bumpFrame, withByte]
  rw [sealFrame_getElem? _ (by simp; omega), List.getElem?_set_ne (by simp; omega), List.getElem?_set_self (by omega)]

/-- The rewrite of the tx_count field leaves the reserved bit alone (R63). -/
theorem withLowByteTxCount_reserved (low : Byte) {v : Nat} (hv : v < 2 ^ 5) :
    (withLowByteTxCount low v).getLsbD 7 = low.getLsbD 7 := by
  have hmask : (0xF3#8).getLsbD 7 = true := rfl
  simp only [withLowByteTxCount, BitVec.getLsbD_or, BitVec.getLsbD_and, BitVec.getLsbD_shiftLeft, BitVec.getLsbD_ofNat,
    Nat.testBit_lt_two_pow hv, hmask]
  simp

/-- INC_TX leaves the reserved bit alone (R63). -/
theorem incrementText_reserved {text text' : Hex} (h : incrementText text = .ok text') :
    ∃ bs bs' low low', unhex text = .ok bs ∧ unhex text' = .ok bs' ∧ bs[1]? = some low ∧ bs'[1]? = some low' ∧
      low'.getLsbD 7 = low.getLsbD 7 := by
  obtain ⟨bs, low, hbs, hlen, hlow, rfl | rfl⟩ := incrementText_ok h
  · exact ⟨bs, bs, low, low, hbs, hbs, hlow, hlow, rfl⟩
  · have hcount := (lowByteTxCount low).isLt
    exact ⟨bs, _, low, _, hbs, unhex_hexOf _, hlow, bumpFrame_getElem?_one low hlen,
      withLowByteTxCount_reserved low (by omega)⟩

/-- Settles O2: each clause by the lemma on the reserved bit for its operation's computation. -/
theorem reservedBitIsReadByNoField : Obligations.ReservedBitIsReadByNoField := by
  refine ⟨fun n s hn => ?_, fun b0 b1 rest s hrest => ?_, fun addr rep ack s t w hexec hres => ?_,
    fun cw addr src cmd payload s t text hexec hres => ?_, fun text text' s t hexec hres => ?_⟩
  · have hxor : n ^^^ 0x80 ≤ 0xFFFF := Nat.le_of_lt_succ (Nat.xor_lt_two_pow (n := 16) (by omega) (by decide))
    refine ⟨_, exec_unpackCw_nat hn s, ?_⟩
    rw [exec_unpackCw_nat hxor, BitVec.ofNat_xor, unpack_xor_reserved]
    rfl
  · match rest, hrest with
    | net :: dest :: src :: code :: data, _ =>
      refine ⟨_, by rw [exec, execDecode, parseFrame_cons]; rfl, ?_⟩
      rw [exec, execDecode, parseFrame_xor_reserved, parseFrame_cons]
      rfl
  · obtain ⟨_, hword, hw⟩ := answer_map_result hexec hres
    cases hw
    exact buildWord_reserved hword
  · obtain ⟨_, hframe, htext⟩ := answer_map_result hexec hres
    cases htext
    exact encodeFrame_word_reserved hframe
  · obtain ⟨_, hinc, htext⟩ := answer_map_result hexec hres
    cases htext
    exact incrementText_reserved hinc

/-! ### LEVEL_PAYLOAD -/

/-- LEVEL_PAYLOAD answers the payload or the fault of `levelBytes` (R152). -/
theorem exec_levelPayload (addr : Address) (level rate : Int) (s : State) :
    exec (.levelPayload addr level rate) s = answer s ((levelBytes addr level rate).map .bytes) := rfl

theorem exec_levelPayload_ok {addr : Address} {level rate : Int} {p : Bytes} (h : levelBytes addr level rate = .ok p)
    (s : State) : exec (.levelPayload addr level rate) s = .next (s.respond (.ok (.bytes p) none)) := by
  rw [exec_levelPayload, h]
  rfl

theorem exec_levelPayload_error {addr : Address} {level rate : Int} {f : BlockFault}
    (h : levelBytes addr level rate = .error f) (s : State) :
    exec (.levelPayload addr level rate) s = .next (s.respond (.fault f)) := by
  rw [exec_levelPayload, h]
  rfl

theorem levelChecks_ok {addr : Address} {level rate : Int} (ha : addr.isLink ≠ addr.isDevice)
    (hl : 0 ≤ level ∧ level ≤ 255) (hr : -1 ≤ rate ∧ rate ≤ 255) : levelChecks addr level rate = .ok () := by
  simp [levelChecks, ha, checkArg_ok .level hl, checkArg_ok .rate hr]

theorem levelBytes_badAddress {addr : Address} (ha : addr.isLink = addr.isDevice) (level rate : Int) :
    levelBytes addr level rate = .error (.badAddress addr.isLink addr.isDevice) := by
  simp [levelBytes, levelChecks, checkAddress_error ha]

theorem levelBytes_badLevel {addr : Address} {level : Int} (ha : addr.isLink ≠ addr.isDevice)
    (hl : ¬(0 ≤ level ∧ level ≤ 255)) (rate : Int) :
    levelBytes addr level rate = .error (.argRange .level (some level)) := by
  simp [levelBytes, levelChecks, ha, checkArg_error .level hl]

theorem levelBytes_badRate {addr : Address} {level rate : Int} (ha : addr.isLink ≠ addr.isDevice)
    (hl : 0 ≤ level ∧ level ≤ 255) (hr : ¬(-1 ≤ rate ∧ rate ≤ 255)) :
    levelBytes addr level rate = .error (.argRange .rate (some rate)) := by
  simp [levelBytes, levelChecks, ha, checkArg_ok .level hl, checkArg_error .rate hr]

/-- A fault of the channel operand comes last, and on a multi-channel device only (R152, R160). -/
theorem levelBytes_badChannel {addr : Address} {level rate : Int} {f : BlockFault}
    (hchecks : levelChecks addr level rate = .ok ()) (hd : addr.isDevice = true) (hm : addr.multiChannel = true)
    (hch : channelByte addr.channel = .error f) : levelBytes addr level rate = .error f := by
  simp [levelBytes, hchecks, hd, hm, hch]

/-- Operands that pass the checks give the form of R69's table that the Address and the rate select. -/
theorem levelBytes_of_levelForm {addr : Address} {level : Nat} {rate : Int} {p : Bytes}
    (hchecks : levelChecks addr level rate = .ok ()) (hform : levelForm addr level rate p) :
    levelBytes addr level rate = .ok p := by
  rcases hform with ⟨hd, hm, ch, hle, hch, rfl⟩ | ⟨hdm, hr, rfl⟩ | ⟨hdm, hr, rfl⟩
  · have hbyte : channelByte addr.channel = .ok (BitVec.ofNat 8 (ch + 1)) := by
      simp [channelByte, hch, Nat.not_lt.2 hle]
    simp [levelBytes, hchecks, hd, hm, hbyte]
  · simp [levelBytes, hchecks, hdm, hr]
  · subst hr
    simp [levelBytes, hchecks, hdm]

/-- Settles O20: what `levelBytes` gives on each of the operands that the clauses name. -/
theorem levelPayloadGivesTheTable : Obligations.LevelPayloadGivesTheTable := by
  refine ⟨fun _ => rfl, fun addr level rate p s ha hl hlo hhi hform => ?_, fun addr level rate s ha => ?_,
    fun addr level rate s ha hl => ?_, fun addr level rate s ha hl0 hl hr => ?_,
    fun addr level rate s hlink hd hm hl0 hl hlo hhi => ?_⟩
  · exact exec_levelPayload_ok (levelBytes_of_levelForm (levelChecks_ok ha (by omega) ⟨hlo, hhi⟩) hform) s
  · exact exec_levelPayload_error (levelBytes_badAddress ha level rate) s
  · exact exec_levelPayload_error (levelBytes_badLevel ha (by omega) rate) s
  · exact exec_levelPayload_error (levelBytes_badRate ha ⟨hl0, hl⟩ (by omega)) s
  · have hchecks : levelChecks addr level rate = .ok () :=
      levelChecks_ok (by simp [hlink, hd]) ⟨hl0, hl⟩ ⟨hlo, hhi⟩
    refine ⟨fun hch => ?_, fun ch hch hgt => ?_⟩
    · exact exec_levelPayload_error (levelBytes_badChannel hchecks hd hm (by simp [channelByte, hch])) s
    · exact exec_levelPayload_error (levelBytes_badChannel hchecks hd hm (by simp [channelByte, hch, hgt])) s

end Sys2Proof.Machine
end

section
/-! PROOFS. The family 40_decoder: DECODE (R102, R104), REGISTER (R106), DISPATCH (R108), and the host's invocation of an
INVOKE list (R109, R110). -/

namespace Sys2Proof.Machine

/-! ### The host's invocation of handlers -/

/-- Handlers that do not raise are all invoked before whatever comes after them in the list, and report no failure of
their own (R110). -/
theorem invokeHandlers_append_of_not_raises {raises : Handler → Bool} {good : List Handler}
    (hgood : ∀ g ∈ good, raises g = false) (msg : DecodedMessage) (rest : List Handler) :
    invokeHandlers raises msg (good ++ rest) =
      { calls := (good.map fun g => (g, msg)) ++ (invokeHandlers raises msg rest).calls
        failure := (invokeHandlers raises msg rest).failure } := by
  induction good with
  | nil => rfl
  | cons g good ih =>
    obtain ⟨hg, hgood⟩ := List.forall_mem_cons.1 hgood
    simp [invokeHandlers, hg, ih hgood]

/-- A handler that raises ends the invocation, and its failure is the one reported (R110). -/
theorem invokeHandlers_cons_of_raises {raises : Handler → Bool} {h : Handler} (hraises : raises h = true)
    (msg : DecodedMessage) (after : List Handler) :
    invokeHandlers raises msg (h :: after) = { calls := [(h, msg)], failure := some h } := if_pos hraises

/-- Settles O48: the handlers before the first that raises are invoked whole, and then either the list ends or the one
that raises ends it. -/
theorem handlersAreInvokedInOrderUntilOneFails : Obligations.HandlersAreInvokedInOrderUntilOneFails := by
  refine fun raises msg => ⟨fun hs hgood => ?_, fun good after h hgood hraises => ?_⟩
  · simpa [invokeHandlers] using invokeHandlers_append_of_not_raises hgood msg []
  · rw [invokeHandlers_append_of_not_raises hgood, invokeHandlers_cons_of_raises hraises, List.map_append]
    rfl

/-! ### DECODE -/

/-- A frame shorter than its header does not parse (R102). -/
theorem parseFrame_short {frame : Bytes} (h : frame.length < 6) :
    parseFrame frame = .error (.malformedFrame frame.length) := if_pos h

/-- DECODE of a frame that parses answers the message it parses to (R102). -/
theorem exec_decode_ok {frame : Bytes} {m : DecodedMessage} (h : parseFrame frame = .ok m) (s : State) :
    exec (.decode frame) s = .next (s.respond (.ok (.message m) none)) := by
  simp [exec, execDecode, h, Except.map]

/-- DECODE of a frame that does not parse answers the fault (R102). -/
theorem exec_decode_error {frame : Bytes} {f : BlockFault} (h : parseFrame frame = .error f) (s : State) :
    exec (.decode frame) s = .next (s.respond (.fault f)) := by
  simp [exec, execDecode, h, Except.map]

/-- The fields of a frame's control word, read off its two bytes (R60, R64). -/
theorem unpack_header (b0 b1 : Byte) :
    let f := unpack (BitVec.ofNat 16 (b0.toNat * 256 + b1.toNat))
    f.link = decide (128 ≤ b0.toNat) ∧ f.repeaterReq.toNat = b0.toNat / 32 % 4 ∧ f.length.toNat = b0.toNat % 32 ∧
      f.ackReq.toNat = b1.toNat / 16 % 8 ∧ f.txCount.toNat = b1.toNat / 4 % 4 ∧ f.txSeq.toNat = b1.toNat % 4 := by
  have h0 := b0.isLt
  have h1 := b1.isLt
  have hword : (BitVec.ofNat 16 (b0.toNat * 256 + b1.toNat)).toNat = b0.toNat * 256 + b1.toNat :=
    Nat.mod_eq_of_lt (by omega)
  obtain ⟨hlink, hrep, hlen, hack, hcount, hseq⟩ := unpack_spec (BitVec.ofNat 16 (b0.toNat * 256 + b1.toNat))
  rw [hword] at hlink hrep hlen hack hcount hseq
  refine ⟨hlink.trans (decide_eq_decide.2 ?_), ?_, ?_, ?_, ?_, ?_⟩ <;> omega

/-- Settles O3: `parseFrame_cons` takes the frame apart, and `unpack_header` reads the fields of its control word. -/
theorem decodeParsesEveryFrame : Obligations.DecodeParsesEveryFrame := by
  refine ⟨fun _ => rfl, fun b0 b1 net dest src code data s => ?_, fun frame s hlen => ?_⟩
  · obtain ⟨hlink, hrep, hlen, hack, hcount, hseq⟩ := unpack_header b0 b1
    exact ⟨_, exec_decode_ok (parseFrame_cons b0 b1 net dest src code data) s,
      hlink, hrep, hlen, hack, hcount, hseq, rfl, rfl, rfl, rfl, rfl⟩
  · exact exec_decode_error (parseFrame_short hlen) s

/-! ### REGISTER and DISPATCH -/

/-- Settles O4: REGISTER of a known handler only records its event, and that of a new one also puts the handler at the
end of its code's list, by the laws of `State.appendHandler`. -/
theorem registerAppendsOnce : Obligations.RegisterAppendsOnce :=
  ⟨fun _ => rfl, fun _ _ _ hmem => exec_register_known hmem, fun code h s hmem =>
    ⟨_, exec_register_new hmem, s.appendHandler_handlers_same code h, fun _ => s.appendHandler_handlers_other h⟩⟩

/-- Settles O6: DISPATCH reads the list of the message's code, records it in HIST and answers it, by its definition. -/
theorem dispatchReturnsHandlersAndTriple : Obligations.DispatchReturnsHandlersAndTriple :=
  ⟨fun _ => rfl, fun _ _ => rfl⟩

end Sys2Proof.Machine
end

section
/-! PROOFS. The family 41_checksum: CKSUM_GEN (R120, R121), CKSUM_VERIFY (R122), and what the two of them agree on and
which changes of a frame they see (R123, R124). -/

namespace Sys2Proof.Machine

/-! ### The checksum byte -/

/-- The checksum is also the sum's complement to 256 reduced over the integers (R120). -/
theorem checksum_toNat_int (s : Bytes) : ((checksum s).toNat : Int) = (256 - (byteSum s : Int)) % 256 := by
  rw [checksum_toNat]
  omega

theorem checksum_eq_zero_iff (s : Bytes) : checksum s = 0 ↔ byteSum s % 256 = 0 := by
  have hzero : (0 : Byte).toNat = 0 := rfl
  rw [← BitVec.toNat_inj, checksum_toNat, hzero]
  omega

/-- CKSUM_GEN answers the checksum on every sequence (R121). -/
theorem exec_cksumGen (frame : Bytes) (s : State) :
    exec (.cksumGen frame) s = .next (s.respond (.ok (.byte (checksum frame)) none)) := rfl

/-- Settles O8: the byte is `checksum frame`, and each clause is its lemma. -/
theorem cksumGenComplementsTheSum : Obligations.CksumGenComplementsTheSum :=
  ⟨fun _ => rfl, fun frame s => ⟨checksum frame, exec_cksumGen frame s, checksum_toNat frame,
    checksum_toNat_int frame, byteSum_add_checksum frame, checksum_eq_zero_iff frame⟩⟩

/-! ### Verification -/

@[simp] theorem checksumHolds_eq_true_iff (s : Bytes) : checksumHolds s = true ↔ byteSum s % 256 = 0 :=
  decide_eq_true_iff

@[simp] theorem checksumHolds_eq_false_iff (s : Bytes) : checksumHolds s = false ↔ byteSum s % 256 ≠ 0 :=
  decide_eq_false_iff_not

/-- CKSUM_VERIFY answers on every non-empty sequence whether the checksum invariant holds (R122). -/
theorem exec_cksumVerify {frame : Bytes} (h : frame ≠ []) (s : State) :
    exec (.cksumVerify frame) s = .next (s.respond (.ok (.bool (checksumHolds frame)) none)) := by
  obtain ⟨b, rest, rfl⟩ := List.exists_cons_of_ne_nil h
  rfl

/-- CKSUM_VERIFY faults on the empty sequence, which has no checksum byte (R122). -/
theorem exec_cksumVerify_nil (s : State) :
    exec (.cksumVerify []) s = .next (s.respond (.fault (.malformedFrame 0))) := rfl

/-- Settles O9: the non-empty and the empty sequence, each by its rule. -/
theorem cksumVerifyAnswersTheInvariant : Obligations.CksumVerifyAnswersTheInvariant :=
  ⟨fun _ => rfl, fun _ _ s => exec_cksumVerify (List.cons_ne_nil _ _) s, exec_cksumVerify_nil⟩

/-- A sequence followed by its checksum satisfies the checksum invariant (R123). -/
theorem checksumHolds_append_checksum (s : Bytes) : checksumHolds (s ++ [checksum s]) = true := by
  simpa using byteSum_add_checksum s

/-- Settles O10: the byte generated is the checksum, and with it the invariant holds. -/
theorem verifyAcceptsGeneratedChecksum : Obligations.VerifyAcceptsGeneratedChecksum := by
  refine fun frame s => ⟨checksum frame, exec_cksumGen frame s, ?_⟩
  rw [exec_cksumVerify (by simp) s, checksumHolds_append_checksum]
  rfl

/-! ### The changes that verification sees -/

/-- One byte changed changes the sum modulo 256, since two bytes differ by less than 256 (R124). -/
theorem byteSum_mod_ne_of_byte_ne {b c : Byte} (hne : b ≠ c) (left right : Bytes) :
    byteSum (left ++ b :: right) % 256 ≠ byteSum (left ++ c :: right) % 256 := by
  have hval : b.toNat ≠ c.toNat := mt BitVec.eq_of_toNat_eq hne
  have hb := b.isLt
  have hc := c.isLt
  simp only [byteSum_append, byteSum_cons]
  omega

/-- A reordering leaves the sum as it is (R124). -/
theorem byteSum_eq_of_perm {f g : Bytes} (h : f.Perm g) : byteSum f = byteSum g := (h.map BitVec.toNat).sum_eq

/-- The invariant depends on the sum modulo 256 alone (R124). -/
theorem checksumHolds_congr {f g : Bytes} (h : byteSum f % 256 = byteSum g % 256) :
    checksumHolds f = checksumHolds g := by
  rw [checksumHolds, checksumHolds, h]

/-- Settles O11: a changed byte changes the sum modulo 256, and a reordering or changes that cancel do not; the answer
is the invariant, which that sum decides. -/
theorem verifyCatchesOneByteChange : Obligations.VerifyCatchesOneByteChange := by
  refine ⟨fun left right b c s hne hsum => ?_, fun f g s hf hg h => ?_⟩
  · have hfails : checksumHolds (left ++ c :: right) = false :=
      (checksumHolds_eq_false_iff _).2 fun hzero => byteSum_mod_ne_of_byte_ne hne left right (hsum.trans hzero.symm)
    rw [exec_cksumVerify (by simp) s, hfails]
    rfl
  · have hsum : byteSum f % 256 = byteSum g % 256 := h.elim (fun hperm => by rw [byteSum_eq_of_perm hperm]) id
    exact ⟨checksumHolds f, exec_cksumVerify hf s, checksumHolds_congr hsum ▸ exec_cksumVerify hg s⟩

end Sys2Proof.Machine
end

section
/-! PROOFS. The family 42_encoder: BUILD_CW (R130 to R132), ENCODE and the length merge (R135 to R141), the encoders'
frames parsed, verified and decoded again (R123, R141, R145), HEX_SERIALIZE and HEX_PARSE (R142 to R144). -/

namespace Sys2Proof.Machine

/-! ### BUILD_CW -/

/-- The state after the query whose answer is known. -/
theorem State.query_eq_afterQuery {s : State} {addr : Address} {v : Int}
    (h : s.nextTxAnswer addr.networkId addr.targetId = v) :
    s.query addr.networkId addr.targetId = s.afterQuery addr v := by
  subst h
  rfl

theorem buildCwChecks_badAddress {addr : Address} (ha : addr.isLink = addr.isDevice) (rep ack : Int) :
    buildCwChecks addr rep ack = .error (.badAddress addr.isLink addr.isDevice) := by
  simp [buildCwChecks, checkAddress_error ha]

theorem buildCwChecks_badRep {addr : Address} {rep : Int} (ha : addr.isLink ≠ addr.isDevice)
    (hr : ¬(0 ≤ rep ∧ rep ≤ 3)) (ack : Int) :
    buildCwChecks addr rep ack = .error (.contractViolation .repeaterReq rep) := by
  simp [buildCwChecks, ha, checkContract_error .repeaterReq hr]

theorem buildCwChecks_badAck {addr : Address} {rep ack : Int} (ha : addr.isLink ≠ addr.isDevice)
    (hr : 0 ≤ rep ∧ rep ≤ 3) (hk : ¬(0 ≤ ack ∧ ack ≤ 7)) :
    buildCwChecks addr rep ack = .error (.contractViolation .ackReq ack) := by
  simp [buildCwChecks, ha, checkContract_ok .repeaterReq hr, checkContract_error .ackReq hk]

/-- A fault of BUILD_CW's checks comes before its query (R130). -/
theorem buildWord_of_checks_error {addr : Address} {rep ack : Int} {f : BlockFault}
    (h : buildCwChecks addr rep ack = .error f) (s : State) : buildWord addr rep ack s = (s, .error f) := by
  simp [buildWord, h]

/-- Operands that pass BUILD_CW's checks and an answer of 1..4 give the word, after the query (R130). -/
theorem buildWord_of_answer {addr : Address} {rep ack v : Int} {s : State}
    (hchecks : buildCwChecks addr rep ack = .ok ()) (hans : s.nextTxAnswer addr.networkId addr.targetId = v)
    (hv : 1 ≤ v ∧ v ≤ 4) :
    buildWord addr rep ack s = (s.afterQuery addr v, .ok (packWord addr.isLink rep ack v)) := by
  simp [buildWord, hchecks, hans, checkContract_ok .txCount hv, State.query_eq_afterQuery hans]

/-- An answer outside 1..4 is a fault after the query (R131). -/
theorem buildWord_of_badAnswer {addr : Address} {rep ack v : Int} {s : State}
    (hchecks : buildCwChecks addr rep ack = .ok ()) (hans : s.nextTxAnswer addr.networkId addr.targetId = v)
    (hv : ¬(1 ≤ v ∧ v ≤ 4)) :
    buildWord addr rep ack s = (s.afterQuery addr v, .error (.contractViolation .txCount v)) := by
  simp [buildWord, hchecks, hans, checkContract_error .txCount hv, State.query_eq_afterQuery hans]

theorem exec_buildCw_ok {addr : Address} {rep ack : Int} {s t : State} {w : ControlWord}
    (h : buildWord addr rep ack s = (t, .ok w)) :
    exec (.buildCw addr rep ack) s = .next (t.respond (.ok (.word w) none)) := by
  simp [exec, execBuildCw, h, Except.map]

theorem exec_buildCw_error {addr : Address} {rep ack : Int} {s t : State} {f : BlockFault}
    (h : buildWord addr rep ack s = (t, .error f)) :
    exec (.buildCw addr rep ack) s = .next (t.respond (.fault f)) := by
  simp [exec, execBuildCw, h, Except.map]

/-- Settles O12: the word is `packWord`'s, and each fault is that of the first check that fails. -/
theorem buildCwPacksItsFields : Obligations.BuildCwPacksItsFields := by
  refine ⟨fun _ => rfl, fun addr rep ack v s ha hr hk hans h1 h4 => ?_, fun addr rep ack s ha => ?_,
    fun addr rep ack s ha hr => ?_, fun addr rep ack s ha hr0 hr3 hk => ?_,
    fun addr rep ack v s ha hr0 hr3 hk0 hk7 hans hv => ?_⟩
  · have hchecks : buildCwChecks addr (rep : Int) (ack : Int) = .ok () :=
      buildCwChecks_ok ha (by omega) (by omega)
    exact ⟨_, exec_buildCw_ok (buildWord_of_answer hchecks hans (by omega)), packWord_toNat addr.isLink hr hk h1 h4⟩
  · exact exec_buildCw_error (buildWord_of_checks_error (buildCwChecks_badAddress ha rep ack) s)
  · exact exec_buildCw_error (buildWord_of_checks_error (buildCwChecks_badRep ha (by omega) ack) s)
  · exact exec_buildCw_error (buildWord_of_checks_error (buildCwChecks_badAck ha ⟨hr0, hr3⟩ (by omega)) s)
  · have hchecks : buildCwChecks addr rep ack = .ok () := buildCwChecks_ok ha ⟨hr0, hr3⟩ ⟨hk0, hk7⟩
    exact exec_buildCw_error (buildWord_of_badAnswer hchecks hans (by omega))

/-! ### The length merge -/

/-- The merged word as the number the statements write (R138). -/
theorem mergeLen_toNat_eq_mergedWord (mode : LenMerge) (c : ControlWord) {total : Nat} (ht : total ≤ 31) :
    (mergeLen mode c total).toNat = mergedWord mode c.toNat total := by
  rw [mergeLen_toNat mode c ht]
  cases mode <;> rfl

/-- Where the length field is 0 both readings of LEN_MERGE add the length to the word (R138). -/
theorem mergedWord_of_noLength (mode : LenMerge) {cw total : Nat} (hcw : cw / 2 ^ 8 % 2 ^ 5 = 0)
    (ht : total ≤ 31) : mergedWord mode cw total = cw + total * 2 ^ 8 := by
  cases mode with
  | replace =>
    show cw - cw / 2 ^ 8 % 2 ^ 5 * 2 ^ 8 + total * 2 ^ 8 = cw + total * 2 ^ 8
    rw [hcw, Nat.zero_mul, Nat.sub_zero]
  | or =>
    have hhigh : 2 ^ 5 * (cw / 256 / 32) + total = cw / 256 ||| total := by
      rw [Nat.two_pow_add_eq_or_of_lt (by omega : total < 2 ^ 5)]
      congr 1
      omega
    obtain ⟨hdiv, hmod⟩ := or_mul_256 cw total
    rw [← hhigh] at hdiv
    show cw ||| total * 256 = cw + total * 2 ^ 8
    omega

/-- On a word whose length field is 0 the two readings of LEN_MERGE agree (R138). -/
theorem mergeLen_replace_eq_or {c : ControlWord} {total : Nat} (hc : c.toNat / 2 ^ 8 % 2 ^ 5 = 0)
    (ht : total ≤ 31) : mergeLen .replace c total = mergeLen .or c total := by
  apply BitVec.eq_of_toNat_eq
  simp only [mergeLen_toNat_eq_mergedWord _ _ ht, mergedWord_of_noLength _ hc ht]

/-- The length field of an explicit word with the length merged in (R138, R145). -/
theorem mergedWord_length (mode : LenMerge) (cw : Nat) {total : Nat} (ht : total ≤ 31) :
    mergedWord mode cw total / 2 ^ 8 % 2 ^ 5 = decodedLength mode (.word (cw : Int)) total := by
  cases mode with
  | replace =>
    show (cw - cw / 2 ^ 8 % 2 ^ 5 * 2 ^ 8 + total * 2 ^ 8) / 2 ^ 8 % 2 ^ 5 = total
    omega
  | or =>
    calc (cw ||| total * 2 ^ 8) / 2 ^ 8 % 2 ^ 5
        = (cw / 2 ^ 8 ||| total) % 2 ^ 5 := by rw [show (2 : Nat) ^ 8 = 256 from rfl, (or_mul_256 cw total).1]
      _ = cw / 2 ^ 8 % 2 ^ 5 ||| total := by rw [Nat.or_mod_two_pow, Nat.mod_eq_of_lt (by omega : total < 2 ^ 5)]

/-- The word of an `auto` frame with no length yet, as a number (R132, R136). -/
theorem packWord_auto_toNat (link : Bool) {v : Nat} (h1 : 1 ≤ v) (h4 : v ≤ 4) :
    (packWord link 0 0 (v : Int)).toNat = (if link then 2 ^ 15 else 0) + (v - 1) * 2 ^ 2 := by
  simpa using packWord_toNat link (rep := 0) (ack := 0) (by omega) (by omega) h1 h4

theorem packWord_auto_noLength (link : Bool) {v : Int} (hv : 1 ≤ v ∧ v ≤ 4) :
    (packWord link 0 0 v).toNat / 2 ^ 8 % 2 ^ 5 = 0 := by
  lift v to Nat using by omega
  rw [packWord_auto_toNat link (by omega) (by omega)]
  cases link <;> simp <;> omega

/-- The merged word of an `auto` frame is `autoWord` under both readings of LEN_MERGE (R138). -/
theorem mergedWord_auto (mode : LenMerge) (addr : Address) {v len : Nat} (h1 : 1 ≤ v) (h4 : v ≤ 4) (hlen : len ≤ 24) :
    mergedWord mode (packWord addr.isLink 0 0 (v : Int)).toNat (7 + len) = autoWord addr v len := by
  rw [mergedWord_of_noLength mode (packWord_auto_noLength addr.isLink (by omega)) (by omega),
    packWord_auto_toNat addr.isLink h1 h4]
  unfold autoWord
  omega

/-! ### ENCODE -/

/-- The bytes of a frame before its checksum (R60, R140). -/
def frameBody (c : ControlWord) (addr : Address) (src cmd : Byte) (payload : Bytes) : Bytes :=
  [BitVec.ofNat 8 (c.toNat / 256), BitVec.ofNat 8 c.toNat, addr.networkId, addr.targetId, src, cmd] ++ payload

@[simp] theorem frameBody_length (c : ControlWord) (addr : Address) (src cmd : Byte) (payload : Bytes) :
    (frameBody c addr src cmd payload).length = 6 + payload.length := by
  simp [frameBody]
  omega

/-- The frame ENCODE seals is its body followed by the body's checksum (R141). -/
theorem sealFrame_assembleFrame (c : ControlWord) (addr : Address) (src cmd : Byte) (payload : Bytes) :
    sealFrame (assembleFrame c addr src cmd payload) =
      frameBody c addr src cmd payload ++ [checksum (frameBody c addr src cmd payload)] := by
  rw [assembleFrame_eq, sealFrame_append]
  rfl

/-- The checksum as the byte `wireFrame` writes: the reduction modulo 256 is the byte's own. -/
theorem checksum_eq_ofNat (s : Bytes) : checksum s = BitVec.ofNat 8 (256 - byteSum s % 256) := by
  apply BitVec.eq_of_toNat_eq
  rw [checksum_toNat, BitVec.toNat_ofNat]

/-- A frame's body and its checksum are the frame the spec lays out (R60, R120). -/
theorem frameBody_append_checksum (c : ControlWord) (addr : Address) (src cmd : Nat) (payload : Bytes) :
    frameBody c addr (BitVec.ofNat 8 src) (BitVec.ofNat 8 cmd) payload ++
        [checksum (frameBody c addr (BitVec.ofNat 8 src) (BitVec.ofNat 8 cmd) payload)] =
      wireFrame c.toNat addr src cmd payload := by
  rw [checksum_eq_ofNat]
  rfl

/-- What ENCODE finishes is the hex string of the frame the spec lays out (R135, R138, R141). -/
theorem finishFrame_eq_wireFrame (mode : LenMerge) (c : ControlWord) (addr : Address) (src cmd : Nat)
    {payload : Bytes} (hlen : payload.length ≤ 24) :
    finishFrame mode c addr (BitVec.ofNat 8 src) (BitVec.ofNat 8 cmd) payload =
      .ok (hexOf (wireFrame (mergedWord mode c.toNat (7 + payload.length)) addr src cmd payload)) := by
  rw [finishFrame_ok hlen, sealFrame_assembleFrame, frameBody_append_checksum,
    mergeLen_toNat_eq_mergedWord mode c (by omega)]

theorem encodeChecks_nat {addr : Address} {src cmd : Nat} (ha : addr.isLink ≠ addr.isDevice) (hs : src ≤ 255)
    (hc : cmd ≤ 255) : encodeChecks addr (src : Int) (cmd : Int) = .ok (BitVec.ofNat 8 src, BitVec.ofNat 8 cmd) := by
  simpa using encodeChecks_ok (src := src) (cmd := cmd) ha (by omega) (by omega)

theorem encodeChecks_badAddress {addr : Address} (ha : addr.isLink = addr.isDevice) (src cmd : Int) :
    encodeChecks addr src cmd = .error (.badAddress addr.isLink addr.isDevice) := by
  simp [encodeChecks, checkAddress_error ha]

theorem encodeChecks_badSrc {addr : Address} {src : Int} (ha : addr.isLink ≠ addr.isDevice)
    (hs : ¬(0 ≤ src ∧ src ≤ 255)) (cmd : Int) :
    encodeChecks addr src cmd = .error (.contractViolation .src src) := by
  simp [encodeChecks, ha, checkByte_error .src hs]

theorem encodeChecks_badCmd {addr : Address} {src cmd : Int} (ha : addr.isLink ≠ addr.isDevice)
    (hs : 0 ≤ src ∧ src ≤ 255) (hc : ¬(0 ≤ cmd ∧ cmd ≤ 255)) :
    encodeChecks addr src cmd = .error (.contractViolation .cmd cmd) := by
  simp [encodeChecks, ha, checkByte_ok .src hs, checkByte_error .cmd hc]

/-- A fault of ENCODE's operand checks comes before its control word is made (R135). -/
theorem encodeFrame_of_checks_error {addr : Address} {src cmd : Int} {f : BlockFault}
    (h : encodeChecks addr src cmd = .error f) (cw : CwOperand) (payload : Bytes) (s : State) :
    encodeFrame cw addr src cmd payload s = (s, .error f) := by
  simp [encodeFrame, h]

theorem encodeFrame_of_word_error {cw : CwOperand} {addr : Address} {src cmd : Int} {s t : State} {f : BlockFault}
    {srcByte cmdByte : Byte} (hchecks : encodeChecks addr src cmd = .ok (srcByte, cmdByte))
    (hword : encodeWord cw addr s = (t, .error f)) (payload : Bytes) :
    encodeFrame cw addr src cmd payload s = (t, .error f) := by
  simp [encodeFrame, hchecks, hword]

theorem encodeFrame_of_word_ok {cw : CwOperand} {addr : Address} {src cmd : Int} {s t : State} {c : ControlWord}
    {srcByte cmdByte : Byte} (hchecks : encodeChecks addr src cmd = .ok (srcByte, cmdByte))
    (hword : encodeWord cw addr s = (t, .ok c)) (payload : Bytes) :
    encodeFrame cw addr src cmd payload s = (t, finishFrame s.params.lenMerge c addr srcByte cmdByte payload) := by
  simp [encodeFrame, hchecks, hword]

theorem encodeWord_word_nat {cw : Nat} (h : cw ≤ 0xFFFF) (addr : Address) (s : State) :
    encodeWord (.word (cw : Int)) addr s = (s, .ok (BitVec.ofNat 16 cw)) := by
  simp [encodeWord, checkWord_nat h]

theorem encodeWord_word_error {cw : Int} (h : ¬(0 ≤ cw ∧ cw ≤ 0xFFFF)) (addr : Address) (s : State) :
    encodeWord (.word cw) addr s = (s, .error (.contractViolation .cw cw)) := by
  simp [encodeWord, checkWord_error h]

/-- The word of an `auto` frame is BUILD_CW's with rep = 0 and ack = 0, after the query (R136). -/
theorem encodeWord_auto_ok {addr : Address} {v : Int} {s : State} (ha : addr.isLink ≠ addr.isDevice)
    (hans : s.nextTxAnswer addr.networkId addr.targetId = v) (hv : 1 ≤ v ∧ v ≤ 4) :
    encodeWord .auto addr s = (s.afterQuery addr v, .ok (packWord addr.isLink 0 0 v)) :=
  buildWord_of_answer (buildCwChecks_ok ha (by omega) (by omega)) hans hv

theorem encodeWord_auto_badAnswer {addr : Address} {v : Int} {s : State} (ha : addr.isLink ≠ addr.isDevice)
    (hans : s.nextTxAnswer addr.networkId addr.targetId = v) (hv : ¬(1 ≤ v ∧ v ≤ 4)) :
    encodeWord .auto addr s = (s.afterQuery addr v, .error (.contractViolation .txCount v)) :=
  buildWord_of_badAnswer (buildCwChecks_ok ha (by omega) (by omega)) hans hv

/-- ENCODE answers what its computation gives, in the state the computation leaves (R135). -/
theorem exec_encode (cw : CwOperand) (addr : Address) (src cmd : Int) (payload : Bytes) (s : State) :
    exec (.encode cw addr src cmd payload) s =
      answer (encodeFrame cw addr src cmd payload s).1 ((encodeFrame cw addr src cmd payload s).2.map .hex) := rfl

theorem exec_encode_ok {cw : CwOperand} {addr : Address} {src cmd : Int} {payload : Bytes} {s t : State} {text : Hex}
    (h : encodeFrame cw addr src cmd payload s = (t, .ok text)) :
    exec (.encode cw addr src cmd payload) s = .next (t.respond (.ok (.hex text) none)) := by
  rw [exec_encode, h]
  rfl

theorem exec_encode_error {cw : CwOperand} {addr : Address} {src cmd : Int} {payload : Bytes} {s t : State}
    {f : BlockFault} (h : encodeFrame cw addr src cmd payload s = (t, .error f)) :
    exec (.encode cw addr src cmd payload) s = .next (t.respond (.fault f)) := by
  rw [exec_encode, h]
  rfl

/-- ENCODE of an explicit word gives its frame with the length merged in, and makes no query (R135, R138). -/
theorem encodeFrame_word {cw src cmd : Nat} {addr : Address} {payload : Bytes} (s : State)
    (ha : addr.isLink ≠ addr.isDevice) (hcw : cw ≤ 0xFFFF) (hs : src ≤ 255) (hc : cmd ≤ 255)
    (hlen : payload.length ≤ 24) :
    encodeFrame (.word (cw : Int)) addr (src : Int) (cmd : Int) payload s =
      (s, .ok (hexOf (wireFrame (mergedWord s.params.lenMerge cw (7 + payload.length)) addr src cmd payload))) := by
  have hword : (BitVec.ofNat 16 cw).toNat = cw := Nat.mod_eq_of_lt (by omega)
  rw [encodeFrame_of_word_ok (encodeChecks_nat ha hs hc) (encodeWord_word_nat hcw addr s),
    finishFrame_eq_wireFrame _ _ _ _ _ hlen, hword]

/-- ENCODE of `auto` gives the frame of `autoWord`, after its query (R136). -/
theorem encodeFrame_auto {src cmd v : Nat} {addr : Address} {payload : Bytes} {s : State}
    (ha : addr.isLink ≠ addr.isDevice) (hs : src ≤ 255) (hc : cmd ≤ 255) (hlen : payload.length ≤ 24)
    (hans : s.nextTxAnswer addr.networkId addr.targetId = (v : Int)) (h1 : 1 ≤ v) (h4 : v ≤ 4) :
    encodeFrame .auto addr (src : Int) (cmd : Int) payload s =
      (s.afterQuery addr v, .ok (hexOf (wireFrame (autoWord addr v payload.length) addr src cmd payload))) := by
  rw [encodeFrame_of_word_ok (encodeChecks_nat ha hs hc) (encodeWord_auto_ok ha hans (by omega)),
    finishFrame_eq_wireFrame _ _ _ _ _ hlen, mergedWord_auto _ addr h1 h4 hlen]

/-- A payload of 25 bytes or more faults once the control word is made, whose query stays (R139, R203). -/
theorem encodeFrame_tooLong {cw : CwOperand} {addr : Address} {src cmd : Nat} {payload : Bytes} {s t : State}
    {c : ControlWord} (ha : addr.isLink ≠ addr.isDevice) (hs : src ≤ 255) (hc : cmd ≤ 255)
    (hword : encodeWord cw addr s = (t, .ok c)) (hlen : 25 ≤ payload.length) :
    encodeFrame cw addr (src : Int) (cmd : Int) payload s = (t, .error (.frameTooLong (7 + payload.length))) := by
  rw [encodeFrame_of_word_ok (encodeChecks_nat ha hs hc) hword, finishFrame_error hlen]

/-- Settles O13: the two forms of the control word, and then the faults in the order of ENCODE's checks. -/
theorem encodeGivesTheFrameOrTheFirstFault : Obligations.EncodeGivesTheFrameOrTheFirstFault := by
  refine ⟨fun _ => rfl, fun cw src cmd addr payload s ha hcw hs hc hlen => ?_,
    fun src cmd v addr payload s ha hs hc hlen hans h1 h4 => ?_, fun cw addr src cmd payload s ha => ?_,
    fun cw addr src cmd payload s ha hs => ?_, fun cw addr src cmd payload s ha hs0 hs hc => ?_,
    fun cw addr src cmd payload s ha hs hc hcw => ?_, fun cw addr src cmd payload s ha hs hc hcw hlen => ?_,
    fun v addr src cmd payload s ha hs hc hans hv => ?_,
    fun v addr src cmd payload s ha hs hc hans h1 h4 hlen => ?_⟩
  · exact exec_encode_ok (encodeFrame_word s ha hcw hs hc hlen)
  · exact exec_encode_ok (encodeFrame_auto ha hs hc hlen hans h1 h4)
  · exact exec_encode_error (encodeFrame_of_checks_error (encodeChecks_badAddress ha src cmd) cw payload s)
  · exact exec_encode_error (encodeFrame_of_checks_error (encodeChecks_badSrc ha (by omega) cmd) cw payload s)
  · exact exec_encode_error
      (encodeFrame_of_checks_error (encodeChecks_badCmd ha ⟨hs0, hs⟩ (by omega)) cw payload s)
  · exact exec_encode_error
      (encodeFrame_of_word_error (encodeChecks_nat ha hs hc) (encodeWord_word_error (by omega) addr s) payload)
  · exact exec_encode_error (encodeFrame_tooLong ha hs hc (encodeWord_word_nat hcw addr s) hlen)
  · exact exec_encode_error
      (encodeFrame_of_word_error (encodeChecks_nat ha hs hc) (encodeWord_auto_badAnswer ha hans (by omega)) payload)
  · exact exec_encode_error (encodeFrame_tooLong ha hs hc (encodeWord_auto_ok ha hans ⟨h1, h4⟩) hlen)

/-! ### Every frame an encoder gives -/

/-- ENCODE's computation, but for the state it leaves: the checks, the control word, the finish (R135). -/
theorem encodeFrame_snd (cw : CwOperand) (addr : Address) (src cmd : Int) (payload : Bytes) (s : State) :
    (encodeFrame cw addr src cmd payload s).2 =
      (encodeChecks addr src cmd).bind fun ids => (encodeWord cw addr s).2.bind fun c =>
        finishFrame s.params.lenMerge c addr ids.1 ids.2 payload := by
  cases hchecks : encodeChecks addr src cmd with
  | error f => rw [encodeFrame_of_checks_error hchecks]; rfl
  | ok ids =>
    cases hword : encodeWord cw addr s with
    | mk t e =>
      cases e with
      | error f => rw [encodeFrame_of_word_error hchecks hword]; rfl
      | ok c => rw [encodeFrame_of_word_ok hchecks hword]; rfl

/-- Everything ENCODE's computation has done where it gives a string (R135): its checks passed, its control word was
made, and the string is what finishing that word gave. -/
theorem encodeFrame_eq_ok {cw : CwOperand} {addr : Address} {src cmd : Int} {payload : Bytes} {s : State} {text : Hex}
    (h : (encodeFrame cw addr src cmd payload s).2 = .ok text) :
    ∃ c, (0 ≤ src ∧ src ≤ 255) ∧ (0 ≤ cmd ∧ cmd ≤ 255) ∧ (encodeWord cw addr s).2 = .ok c ∧
      finishFrame s.params.lenMerge c addr (BitVec.ofInt 8 src) (BitVec.ofInt 8 cmd) payload = .ok text := by
  rcases encodeChecks_spec addr src cmd with
    ⟨-, hchecks⟩ | ⟨-, -, hchecks⟩ | ⟨-, -, -, hchecks⟩ | ⟨-, hs, hc, hchecks⟩
  case inr.inr.inr =>
    rw [encodeFrame_snd, hchecks] at h
    cases hword : (encodeWord cw addr s).2 with
    | error f =>
      rw [hword] at h
      cases h
    | ok c =>
      rw [hword] at h
      exact ⟨c, hs, hc, rfl, h⟩
  all_goals
    rw [encodeFrame_snd, hchecks] at h
    cases h

/-- A string that ENCODE finishes is the hex string of a body of at most 30 bytes and its checksum (R139, R141). -/
theorem finishFrame_eq_ok {mode : LenMerge} {c : ControlWord} {addr : Address} {src cmd : Byte} {payload : Bytes}
    {text : Hex} (h : finishFrame mode c addr src cmd payload = .ok text) :
    payload.length ≤ 24 ∧
      text = hexOf (frameBody (mergeLen mode c (7 + payload.length)) addr src cmd payload ++
        [checksum (frameBody (mergeLen mode c (7 + payload.length)) addr src cmd payload)]) := by
  by_cases hlen : payload.length ≤ 24
  · cases (finishFrame_ok hlen).symm.trans h
    exact ⟨hlen, congrArg hexOf (sealFrame_assembleFrame ..)⟩
  · cases (finishFrame_error (by omega)).symm.trans h

/-- The hex string of a body of 6 to 30 bytes and its checksum: what every encoder gives (R139, R141). -/
def IsSealedText (text : Hex) : Prop :=
  ∃ body : Bytes, 6 ≤ body.length ∧ body.length ≤ 30 ∧ text = hexOf (body ++ [checksum body])

theorem encodeFrame_isSealedText {cw : CwOperand} {addr : Address} {src cmd : Int} {payload : Bytes} {s : State}
    {text : Hex} (h : (encodeFrame cw addr src cmd payload s).2 = .ok text) : IsSealedText text := by
  obtain ⟨c, -, -, -, hfinish⟩ := encodeFrame_eq_ok h
  obtain ⟨hlen, htext⟩ := finishFrame_eq_ok hfinish
  exact ⟨_, by simp, by simp; omega, htext⟩

theorem encodeCommand_isSealedText {name : Command} {addr : Address} {src : Int} {payload : Except BlockFault Bytes}
    {s : State} {text : Hex} (h : (encodeCommand name addr src payload s).2 = .ok text) : IsSealedText text := by
  cases payload with
  | error f => cases h
  | ok p => exact encodeFrame_isSealedText h

/-- HEX_PARSE of a string that parses answers its bytes (R143). -/
theorem exec_hexParse_ok {text : Hex} {bs : Bytes} (h : unhex text = .ok bs) (s : State) :
    exec (.hexParse text) s = .next (s.respond (.ok (.bytes bs) none)) := by
  simp [exec, execHexParse, h, Except.map]

/-- HEX_PARSE of a string that does not parse answers the fault (R143). -/
theorem exec_hexParse_error {text : Hex} {f : BlockFault} (h : unhex text = .error f) (s : State) :
    exec (.hexParse text) s = .next (s.respond (.fault f)) := by
  simp [exec, execHexParse, h, Except.map]

/-- What `Obligations.EveryEncodedFrameVerifies` says of such a string. -/
theorem IsSealedText.parses_and_verifies {text : Hex} (h : IsSealedText text) (t : State) :
    ∃ bs : Bytes, exec (.hexParse text) t = .next (t.respond (.ok (.bytes bs) none)) ∧ 7 ≤ bs.length ∧
      bs.length ≤ 31 ∧ byteSum bs % 256 = 0 ∧
      exec (.cksumVerify bs) t = .next (t.respond (.ok (.bool true) none)) := by
  obtain ⟨body, hmin, hmax, rfl⟩ := h
  have hholds := checksumHolds_append_checksum body
  refine ⟨body ++ [checksum body], exec_hexParse_ok (unhex_hexOf _) t, by simpa using hmin, by simp; omega,
    (checksumHolds_eq_true_iff _).1 hholds, ?_⟩
  rw [exec_cksumVerify (by simp) t, hholds]

/-- Settles O14: ENCODE and the commands it expands to give sealed strings only. -/
theorem everyEncodedFrameVerifies : Obligations.EveryEncodedFrameVerifies := by
  intro i s t text hi hexec hres
  refine IsSealedText.parses_and_verifies ?_ t
  rcases hi with ⟨_, _, _, _, _, rfl⟩ | ⟨_, _, rfl⟩ | ⟨_, _, rfl⟩ | ⟨_, _, _, _, rfl⟩ | ⟨_, _, _, _, rfl⟩ |
    ⟨_, _, rfl⟩ | ⟨_, _, _, rfl⟩ | ⟨_, _, rfl⟩ <;>
    obtain ⟨_, hframe, htext⟩ := answer_map_result hexec hres <;> cases htext
  case inl => exact encodeFrame_isSealedText hframe
  all_goals exact encodeCommand_isSealedText hframe

/-! ### DECODE of an encoded frame -/

/-- The message whose header fields are those of a control word, an Address, a source id and a command code. -/
def frameMessage (c : ControlWord) (addr : Address) (src cmd : Byte) (data : Bytes) : DecodedMessage :=
  { link := (unpack c).link, repeaterReq := (unpack c).repeaterReq, length := (unpack c).length,
    ackReq := (unpack c).ackReq, txCount := (unpack c).txCount, txSeq := (unpack c).txSeq,
    networkId := addr.networkId, destId := addr.targetId, srcId := src, msgId := cmd, data := data }

/-- The two control-word bytes of a frame put together are its control word (R42, R43). -/
theorem ofNat_header_word (c : ControlWord) :
    BitVec.ofNat 16 ((BitVec.ofNat 8 (c.toNat / 256)).toNat * 256 + (BitVec.ofNat 8 c.toNat).toNat) = c := by
  apply BitVec.eq_of_toNat_eq
  have := c.isLt
  simp only [BitVec.toNat_ofNat]
  omega

/-- DECODE of a frame's body, or of the body with bytes left on after it, recovers what went into the frame (R105,
R145). -/
theorem parseFrame_frameBody_append (c : ControlWord) (addr : Address) (src cmd : Byte) (payload more : Bytes) :
    parseFrame (frameBody c addr src cmd payload ++ more) = .ok (frameMessage c addr src cmd (payload ++ more)) := by
  rw [frameBody, List.append_assoc]
  refine (parseFrame_cons _ _ _ _ _ _ _).trans ?_
  rw [ofNat_header_word]
  rfl

theorem parseFrame_frameBody (c : ControlWord) (addr : Address) (src cmd : Byte) (payload : Bytes) :
    parseFrame (frameBody c addr src cmd payload) = .ok (frameMessage c addr src cmd payload) := by
  simpa using parseFrame_frameBody_append c addr src cmd payload []

theorem stripChecksum_append (s : Bytes) (b : Byte) : stripChecksum (s ++ [b]) = s := by
  simp [stripChecksum, slice]

/-- An integer taken as a byte keeps its value. -/
theorem ofInt_byte_toNat {v : Int} (h : 0 ≤ v ∧ v ≤ 255) : ((BitVec.ofInt 8 v).toNat : Int) = v := by
  lift v to Nat using h.1
  simp
  omega

/-- Everything ENCODE's control word can be (R135, R136): an explicit word of 16 bits, or BUILD_CW's word with rep = 0
and ack = 0 for an answer of 1..4. -/
theorem encodeWord_eq_ok {cw : CwOperand} {addr : Address} {s : State} {c : ControlWord}
    (h : (encodeWord cw addr s).2 = .ok c) :
    (∃ v : Int, cw = .word v ∧ (c.toNat : Int) = v) ∨
      (cw = .auto ∧ ∃ v : Int, (1 ≤ v ∧ v ≤ 4) ∧ c = packWord addr.isLink 0 0 v) := by
  cases cw with
  | word v =>
    by_cases hv : 0 ≤ v ∧ v ≤ 0xFFFF
    · lift v to Nat using hv.1
      rw [encodeWord_word_nat (by omega)] at h
      cases h
      exact .inl ⟨v, rfl, congrArg Nat.cast (Nat.mod_eq_of_lt (by omega))⟩
    · rw [encodeWord_word_error hv] at h
      cases h
  | auto =>
    rcases buildWord_spec addr 0 0 s with ⟨f, -, hout⟩ | ⟨-, -, hout⟩ | ⟨-, hv, hout⟩ <;>
      rw [encodeWord, hout] at h <;> cases h
    exact .inr ⟨rfl, _, hv, rfl⟩

/-- The length DECODE reads from the merged control word (R138, R145). -/
theorem mergeLen_length {cw : CwOperand} {addr : Address} {s : State} {c : ControlWord}
    (h : (encodeWord cw addr s).2 = .ok c) (mode : LenMerge) {total : Nat} (ht : total ≤ 31) :
    (unpack (mergeLen mode c total)).length.toNat = decodedLength mode cw total := by
  obtain ⟨-, -, hlength, -⟩ := unpack_spec (mergeLen mode c total)
  rw [hlength, mergeLen_toNat_eq_mergedWord mode c ht]
  rcases encodeWord_eq_ok h with ⟨_, rfl, rfl⟩ | ⟨rfl, v, hv, rfl⟩
  · exact mergedWord_length mode c.toNat ht
  · have hno := packWord_auto_noLength addr.isLink hv
    rw [mergedWord_of_noLength mode hno ht]
    show _ = total
    omega

/-- Settles O15: the frame is its body and the checksum, and DECODE reads the body's fields back. -/
theorem encodedFrameDecodesBack : Obligations.EncodedFrameDecodesBack := by
  intro cw addr src cmd payload s t text hexec hres
  obtain ⟨_, hframe, htext⟩ := answer_map_result hexec hres
  cases htext
  obtain ⟨c, hs, hc, hword, hfinish⟩ := encodeFrame_eq_ok hframe
  obtain ⟨hlen, rfl⟩ := finishFrame_eq_ok hfinish
  have hlength := mergeLen_length hword s.params.lenMerge (total := 7 + payload.length) (by omega)
  refine ⟨_, _, frameMessage _ addr (BitVec.ofInt 8 src) (BitVec.ofInt 8 cmd) payload,
    exec_hexParse_ok (unhex_hexOf _) t, exec_decode_ok (parseFrame_frameBody_append ..) t, ?_, rfl, rfl, rfl,
    ofInt_byte_toNat hs, ofInt_byte_toNat hc, hlength⟩
  rw [stripChecksum_append]
  exact exec_decode_ok (parseFrame_frameBody ..) t

/-! ### The two readings of LEN_MERGE -/

theorem encodeWord_noLength {cw : CwOperand} {addr : Address} {s : State} {c : ControlWord}
    (h : (encodeWord cw addr s).2 = .ok c) (hcw : ∀ v : Int, cw = .word v → v / 2 ^ 8 % 2 ^ 5 = 0) :
    c.toNat / 2 ^ 8 % 2 ^ 5 = 0 := by
  rcases encodeWord_eq_ok h with ⟨v, rfl, hv⟩ | ⟨-, v, hv, rfl⟩
  · have := hcw v rfl
    omega
  · exact packWord_auto_noLength addr.isLink hv

/-- ENCODE finishes a word whose length field is 0 alike under both readings of LEN_MERGE (R138). -/
theorem finishFrame_replace_eq_or {c : ControlWord} (hc : c.toNat / 2 ^ 8 % 2 ^ 5 = 0) (addr : Address)
    (src cmd : Byte) (payload : Bytes) :
    finishFrame .replace c addr src cmd payload = finishFrame .or c addr src cmd payload := by
  by_cases hlen : payload.length ≤ 24
  · rw [finishFrame_ok hlen, finishFrame_ok hlen, mergeLen_replace_eq_or hc (by omega)]
  · rw [finishFrame_error (by omega), finishFrame_error (by omega)]

/-- The state with another reading of LEN_MERGE. -/
def State.withLenMerge (s : State) (mode : LenMerge) : State := { s with params := { s.params with lenMerge := mode } }

/-- ENCODE's control word does not depend on LEN_MERGE (R136). -/
theorem encodeWord_withLenMerge (cw : CwOperand) (addr : Address) (s : State) (mode : LenMerge) :
    (encodeWord cw addr (s.withLenMerge mode)).2 = (encodeWord cw addr s).2 := by
  cases cw with
  | word v => rfl
  | auto =>
    have hans : (s.withLenMerge mode).nextTxAnswer addr.networkId addr.targetId =
      s.nextTxAnswer addr.networkId addr.targetId := rfl
    rw [encodeWord, encodeWord, buildWord, buildWord, hans]
    split
    · rfl
    · dsimp only
      split <;> rfl

theorem encodeFrame_replace_eq_or {cw : CwOperand} (hcw : ∀ v : Int, cw = .word v → v / 2 ^ 8 % 2 ^ 5 = 0)
    (addr : Address) (src cmd : Int) (payload : Bytes) (s : State) :
    (encodeFrame cw addr src cmd payload (s.withLenMerge .replace)).2 =
      (encodeFrame cw addr src cmd payload (s.withLenMerge .or)).2 := by
  rw [encodeFrame_snd, encodeFrame_snd, encodeWord_withLenMerge, encodeWord_withLenMerge]
  cases encodeChecks addr src cmd with
  | error f => rfl
  | ok ids =>
    cases hword : (encodeWord cw addr s).2 with
    | error f => rfl
    | ok c => exact finishFrame_replace_eq_or (encodeWord_noLength hword hcw) addr ids.1 ids.2 payload

/-- Settles O16: the outcome is the same under both readings, and the response is that of the outcome. -/
theorem lengthMergeModesAgree : Obligations.LengthMergeModesAgree := by
  intro cw addr src cmd payload s hcw
  obtain ⟨resp, hresp⟩ :=
    answer_response_uniform ((encodeFrame cw addr src cmd payload (s.withLenMerge .or)).2.map .hex)
  have hreplace := exec_encode cw addr src cmd payload (s.withLenMerge .replace)
  rw [encodeFrame_replace_eq_or hcw] at hreplace
  exact ⟨_, _, hreplace.trans (hresp _), (exec_encode ..).trans (hresp _), rfl⟩

/-! ### HEX_SERIALIZE and HEX_PARSE -/

theorem toNat_lt_of_hexVal {c : Char} {d : Nibble} (h : hexVal c = some d) : c.toNat < 103 := by
  unfold hexVal at h
  dsimp only at h
  split_ifs at h <;> omega

/-- The characters of a digit are `hexChar`'s and the same in lowercase (R143). The values of all characters up to the
last digit's are worked out one by one. -/
theorem hexVal_eq_some_iff (c : Char) (d : Nibble) :
    hexVal c = some d ↔ c = hexChar d ∨ c = (hexChar d).toLower := by
  have htable : ∀ n : Fin 103, ∀ d ∈ hexVal (Char.ofNat n),
      Char.ofNat n = hexChar d ∨ Char.ofNat n = (hexChar d).toLower := by decide
  have hlower : ∀ d : Nibble, hexVal (hexChar d).toLower = some d := by decide
  constructor
  · intro h
    have hchar : Char.ofNat c.toNat = c := Char.ofNat_toNat c
    simpa [hchar, h] using htable ⟨c.toNat, toNat_lt_of_hexVal h⟩ d
  · rintro (rfl | rfl)
    · exact hexVal_hexChar d
    · exact hlower d

/-- The lowercase digits of R143 in order. -/
theorem lowercaseDigits_getElem? :
    ∀ d : Nibble, "0123456789abcdef".toList[d.toNat]? = some (hexChar d).toLower := by decide

/-- A digit's character in uppercase is the one HEX_SERIALIZE writes (R144). -/
theorem toUpper_of_hexVal {c : Char} {d : Nibble} (h : hexVal c = some d) : c.toUpper = hexChar d := by
  have hupper : ∀ d : Nibble, (hexChar d).toUpper = hexChar d ∧ (hexChar d).toLower.toUpper = hexChar d := by decide
  rcases (hexVal_eq_some_iff c d).1 h with rfl | rfl
  · exact (hupper d).1
  · exact (hupper d).2

theorem nibbles_toNat (hi lo : Nibble) : (hi ++ lo : BitVec 8).toNat = hi.toNat * 16 + lo.toNat := by
  rw [BitVec.toNat_append, ← Nat.shiftLeft_add_eq_or_of_lt lo.isLt, Nat.shiftLeft_eq]

/-- A string whose characters `2k` and `2k + 1` are the digits of byte `k` is the digits of the bytes, taken in order
(R45, R143). -/
theorem exists_digits_of_pairs {text : Hex} {bs : Bytes} (hlen : text.length = 2 * bs.length)
    (hpairs : ∀ (k : Nat) (b : Byte), bs[k]? = some b → ∃ (x y : Char) (hi lo : Nibble),
      text[2 * k]? = some x ∧ text[2 * k + 1]? = some y ∧ hexVal x = some hi ∧ hexVal y = some lo ∧
      b.toNat = hi.toNat * 16 + lo.toNat) :
    ∃ digits : List Nibble, text.map hexVal = digits.map some ∧ pairDigits digits = bs := by
  induction bs generalizing text with
  | nil => exact ⟨[], by simpa using hlen, rfl⟩
  | cons b bs ih =>
    match text, hlen with
    | x :: y :: text, hlen =>
      obtain ⟨_, _, hi, lo, hx, hy, hhi, hlo, hb⟩ := hpairs 0 b rfl
      cases hx
      cases hy
      obtain ⟨digits, hdigits, rfl⟩ := ih (by simpa [Nat.mul_add] using hlen) fun k c hc => hpairs (k + 1) c hc
      have hbyte : hi ++ lo = b := BitVec.eq_of_toNat_eq ((nibbles_toNat hi lo).trans hb.symm)
      exact ⟨hi :: lo :: digits, by simp [hhi, hlo, hdigits], by rw [pairDigits, hbyte]⟩

/-- An odd length is a fault before any character is read (R143). -/
theorem unhex_odd {text : Hex} (h : text.length % 2 = 1) : unhex text = .error (.malformedHex text.length) := if_pos h

/-- The first character that is no digit is a fault where the length is even (R143). -/
theorem unhex_bad {good bad : Hex} {c : Char} (hlen : (good ++ c :: bad).length % 2 = 0)
    (hgood : ∀ x ∈ good, hexVal x ≠ none) (hc : hexVal c = none) :
    unhex (good ++ c :: bad) = .error (.malformedHex good.length) := by
  have hfirst : good.findIdx? (fun x => (hexVal x).isNone) = none := by
    simpa [List.findIdx?_eq_none_iff, Option.isSome_iff_ne_none] using hgood
  have hfind : (good ++ c :: bad).findIdx? (fun x => (hexVal x).isNone) = some good.length := by
    simp [List.findIdx?_append, List.findIdx?_cons, hfirst, hc]
  simp only [unhex, hlen, hfind]
  rfl

/-- Settles O18: the digits' characters by `hexVal_eq_some_iff`, the pairs of them by `unhex_of_digits`. -/
theorem hexParseReadsDigitPairs : Obligations.HexParseReadsDigitPairs := by
  refine ⟨fun _ => rfl, fun c d => ?_, fun text bs s hlen hpairs => ?_, fun text s hodd => ?_,
    fun good bad c s hlen hgood hc => ?_⟩
  · rw [hexVal_eq_some_iff, uppercaseDigits_getElem?, lowercaseDigits_getElem?, Option.some_inj, Option.some_inj,
      eq_comm, eq_comm (a := c)]
  · obtain ⟨digits, hdigits, rfl⟩ := exists_digits_of_pairs hlen hpairs
    exact exec_hexParse_ok (unhex_of_digits (by omega) hdigits) s
  · exact exec_hexParse_error (unhex_odd hodd) s
  · exact exec_hexParse_error (unhex_bad hlen hgood hc) s

/-- Everything a string that parses is: an even number of digits, whose pairs are the bytes (R143). -/
theorem unhex_eq_ok {text : Hex} {bs : Bytes} (h : unhex text = .ok bs) :
    text.length % 2 = 0 ∧ (∀ c ∈ text, hexVal c ≠ none) ∧ bs = pairDigits (text.filterMap hexVal) := by
  unfold unhex at h
  split at h
  · cases h
  · split at h
    · cases h
    · rename_i hodd hnone
      cases h
      refine ⟨by omega, ?_, rfl⟩
      simpa [List.findIdx?_eq_none_iff, Option.isSome_iff_ne_none] using hnone

/-- A string of digits in uppercase is what its digits' values are written as (R144). -/
theorem map_toUpper_of_digits {text : Hex} (h : ∀ c ∈ text, hexVal c ≠ none) :
    text.map Char.toUpper = (text.filterMap hexVal).map hexChar := by
  induction text with
  | nil => rfl
  | cons c text ih =>
    obtain ⟨hc, htext⟩ := List.forall_mem_cons.1 h
    obtain ⟨d, hd⟩ := Option.ne_none_iff_exists'.1 hc
    simp [hd, toUpper_of_hexVal hd, ih htext]

/-- Serializing pairs of digits writes the digits (R45, R142). -/
theorem hexOf_pairDigits (digits : List Nibble) (heven : digits.length % 2 = 0) :
    hexOf (pairDigits digits) = digits.map hexChar := by
  induction digits using pairDigits.induct with
  | case1 hi lo rest ih =>
    have hhi : (hi ++ lo : BitVec 8).extractLsb' 4 4 = hi := BitVec.extractLsb'_append_eq_left
    have hlo : (hi ++ lo : BitVec 8).extractLsb' 0 4 = lo := BitVec.extractLsb'_append_eq_right
    rw [pairDigits, hexOf_cons, hhi, hlo, ih (by simp only [List.length_cons] at heven; omega)]
    rfl
  | case2 digits hshort =>
    match digits, heven with
    | [], _ => rfl
    | hi :: lo :: rest, _ => exact absurd rfl (hshort hi lo rest)

/-- Serializing what was parsed gives the string in uppercase (R144). -/
theorem hexOf_of_unhex {text : Hex} {bs : Bytes} (h : unhex text = .ok bs) : hexOf bs = text.map Char.toUpper := by
  obtain ⟨heven, hdigits, rfl⟩ := unhex_eq_ok h
  have hupper := map_toUpper_of_digits hdigits
  have hlen : (text.filterMap hexVal).length = text.length := by simpa using (congrArg List.length hupper).symm
  rw [hexOf_pairDigits _ (by rw [hlen, heven]), hupper]

/-- HEX_SERIALIZE answers on every sequence (R142). -/
theorem exec_hexSerialize (frame : Bytes) (s : State) :
    exec (.hexSerialize frame) s = .next (s.respond (.ok (.hex (hexOf frame)) none)) := rfl

/-- Settles O19: `unhex_hexOf` one way, `hexOf_of_unhex` the other. -/
theorem hexParseAndSerializeAreInverse : Obligations.HexParseAndSerializeAreInverse := by
  refine ⟨fun frame s => ⟨hexOf frame, exec_hexSerialize frame s, exec_hexParse_ok (unhex_hexOf frame) s⟩,
    fun text s t bs hexec hres => ?_⟩
  obtain ⟨_, hparse, hbs⟩ := answer_map_result hexec hres
  cases hbs
  rw [exec_hexSerialize, hexOf_of_unhex hparse]
  rfl

end Sys2Proof.Machine
end

section
/-! PROOFS. The family 43_commands: the command-specific encoders are ENCODE with `auto`, their command's byte and their
payload (R150), and what ENCODE gives then: the frame or the first fault (R153 to R159). -/

namespace Sys2Proof.Machine

/-! ### A command's expansion -/

/-- The operation is the encoder of a command for an Address, a source id and a payload: it answers what the command's
expansion computes (R150). -/
def Encodes (i : Instr) (name : Command) (addr : Address) (src : Int) (payload : Except BlockFault Bytes) : Prop :=
  ∀ s : State, exec i s = answerFrame (encodeCommand name addr src payload s)

theorem encodes_encActivate (addr : Address) (src : Int) :
    Encodes (.encActivate addr src) .activate addr src (.ok []) := fun _ => rfl

theorem encodes_encDeactivate (addr : Address) (src : Int) :
    Encodes (.encDeactivate addr src) .deactivate addr src (.ok []) := fun _ => rfl

theorem encodes_encFadeStop (addr : Address) (src : Int) :
    Encodes (.encFadeStop addr src) .fadeStop addr src (.ok []) := fun _ => rfl

theorem encodes_encReportState (addr : Address) (src : Int) :
    Encodes (.encReportState addr src) .reportState addr src (.ok []) := fun _ => rfl

theorem encodes_encGoto {addr : Address} {level rate : Int} {payload : Except BlockFault Bytes}
    (h : levelBytes addr level rate = payload) (src : Int) :
    Encodes (.encGoto addr src level rate) .goto addr src payload := by
  subst h
  exact fun _ => rfl

theorem encodes_encFadeStart {addr : Address} {level rate : Int} {payload : Except BlockFault Bytes}
    (h : levelBytes addr level rate = payload) (src : Int) :
    Encodes (.encFadeStart addr src level rate) .fadeStart addr src payload := by
  subst h
  exact fun _ => rfl

theorem encodes_encBlink {addr : Address} {rate : Int} {payload : Except BlockFault Bytes}
    (h : blinkBytes addr rate = payload) (src : Int) :
    Encodes (.encBlink addr src rate) .blink addr src payload := by
  subst h
  exact fun _ => rfl

section
variable {i : Instr} {name : Command} {addr : Address} {src : Int} {p : Bytes}

/-- Once the payload is computed the command is ENCODE with `auto` and the command's byte (R150). -/
theorem Encodes.exec_eq_encode (h : Encodes i name addr src (.ok p)) (s : State) :
    exec i s = exec (.encode .auto addr src (cmdCode s.params.cmd name).toNat p) s := h s

/-- A fault of the payload is the command's, with no query (R150, R204). -/
theorem Encodes.payload_fault {f : BlockFault} (h : Encodes i name addr src (.error f)) (s : State) :
    exec i s = .next (s.respond (.fault f)) := h s

/-- The command's frame, after one query (R150). -/
theorem Encodes.frame {src v : Nat} {s : State} (h : Encodes i name addr (src : Int) (.ok p))
    (ha : addr.isLink ≠ addr.isDevice) (hs : src ≤ 255) (hlen : p.length ≤ 24)
    (hans : s.nextTxAnswer addr.networkId addr.targetId = (v : Int)) (h1 : 1 ≤ v) (h4 : v ≤ 4) :
    exec i s = .next ((s.afterQuery addr v).respond (.ok (.hex (hexOf
      (wireFrame (autoWord addr v p.length) addr src (cmdCode s.params.cmd name).toNat p))) none)) :=
  (h.exec_eq_encode s).trans
    (exec_encode_ok (encodeFrame_auto ha hs (Nat.le_of_lt_succ (BitVec.isLt _)) hlen hans h1 h4))

theorem Encodes.badAddress (h : Encodes i name addr src (.ok p)) (ha : addr.isLink = addr.isDevice) (s : State) :
    exec i s = .next (s.respond (.fault (.badAddress addr.isLink addr.isDevice))) :=
  (h.exec_eq_encode s).trans
    (exec_encode_error (encodeFrame_of_checks_error (encodeChecks_badAddress ha src _) .auto p s))

theorem Encodes.badSrc (h : Encodes i name addr src (.ok p)) (ha : addr.isLink ≠ addr.isDevice)
    (hs : ¬(0 ≤ src ∧ src ≤ 255)) (s : State) :
    exec i s = .next (s.respond (.fault (.contractViolation .src src))) :=
  (h.exec_eq_encode s).trans
    (exec_encode_error (encodeFrame_of_checks_error (encodeChecks_badSrc ha hs _) .auto p s))

/-- An answer outside 1..4 faults after the query (R131, R150). -/
theorem Encodes.badAnswer {v : Int} {s : State} (h : Encodes i name addr src (.ok p))
    (ha : addr.isLink ≠ addr.isDevice) (hs : 0 ≤ src ∧ src ≤ 255)
    (hans : s.nextTxAnswer addr.networkId addr.targetId = v) (hv : ¬(1 ≤ v ∧ v ≤ 4)) :
    exec i s = .next ((s.afterQuery addr v).respond (.fault (.contractViolation .txCount v))) :=
  (h.exec_eq_encode s).trans
    (exec_encode_error (encodeFrame_of_word_error
      (encodeChecks_ok ha hs (by have := (cmdCode s.params.cmd name).isLt; omega))
      (encodeWord_auto_badAnswer ha hans hv) p))

end

/-! ### The payloads -/

/-- A payload that LEVEL_PAYLOAD answers is the one `levelBytes` gives (R152). -/
theorem levelBytes_of_exec_result {addr : Address} {level rate : Int} {p : Bytes} {s t : State}
    (hexec : exec (.levelPayload addr level rate) s = .next t) (hres : t.result = some (.bytes p)) :
    levelBytes addr level rate = .ok p := by
  obtain ⟨_, hbytes, hp⟩ := answer_map_result hexec hres
  cases hp
  exact hbytes

/-- A fault that LEVEL_PAYLOAD answers is the one `levelBytes` gives (R152). -/
theorem levelBytes_of_exec_finfo {addr : Address} {level rate : Int} {f : BlockFault} {s t : State}
    (hexec : exec (.levelPayload addr level rate) s = .next t) (hf : t.finfo = some f) :
    levelBytes addr level rate = .error f := by
  cases hbytes : levelBytes addr level rate with
  | ok p =>
    cases (exec_levelPayload_ok hbytes s).symm.trans hexec
    cases hf
  | error g =>
    cases (exec_levelPayload_error hbytes s).symm.trans hexec
    cases hf
    rfl

/-- LEVEL_PAYLOAD's address check comes before its payload (R151). -/
theorem isLink_ne_isDevice_of_levelBytes {addr : Address} {level rate : Int} {p : Bytes}
    (h : levelBytes addr level rate = .ok p) : addr.isLink ≠ addr.isDevice := fun ha => by
  cases (levelBytes_badAddress ha level rate).symm.trans h

theorem blinkBytes_ok {addr : Address} {rate : Int} (ha : addr.isLink ≠ addr.isDevice) (hr : 0 ≤ rate ∧ rate ≤ 255) :
    blinkBytes addr rate = .ok [BitVec.ofInt 8 rate] := by
  simp [blinkBytes, ha, checkArg_ok .rate hr]

theorem blinkBytes_badAddress {addr : Address} (ha : addr.isLink = addr.isDevice) (rate : Int) :
    blinkBytes addr rate = .error (.badAddress addr.isLink addr.isDevice) := by
  simp [blinkBytes, checkAddress_error ha]

theorem blinkBytes_badRate {addr : Address} {rate : Int} (ha : addr.isLink ≠ addr.isDevice)
    (hr : ¬(0 ≤ rate ∧ rate ≤ 255)) : blinkBytes addr rate = .error (.argRange .rate (some rate)) := by
  simp [blinkBytes, ha, checkArg_error .rate hr]

/-! ### The statements -/

/-- Settles O24: each encoder is `Encodes.exec_eq_encode` of its command and its payload. -/
theorem commandsExpandIntoEncode : Obligations.CommandsExpandIntoEncode := by
  refine fun addr src level rate s => ⟨(encodes_encActivate addr src).exec_eq_encode s,
    (encodes_encDeactivate addr src).exec_eq_encode s, (encodes_encFadeStop addr src).exec_eq_encode s,
    (encodes_encReportState addr src).exec_eq_encode s, fun p t hexec hres => ?_, fun ha h0 h255 => ?_⟩
  · have hbytes := levelBytes_of_exec_result hexec hres
    exact ⟨(encodes_encGoto hbytes src).exec_eq_encode s, (encodes_encFadeStart hbytes src).exec_eq_encode s⟩
  · exact (encodes_encBlink (blinkBytes_ok ha ⟨h0, h255⟩) src).exec_eq_encode s

/-- The four operations encode a command with the empty payload. -/
theorem exists_encodes_of_mem_emptyPayload {i : Instr} {addr : Address} {src : Int}
    (hi : i ∈ [Instr.encActivate addr src, .encDeactivate addr src, .encFadeStop addr src, .encReportState addr src]) :
    ∃ name, Encodes i name addr src (.ok []) := by
  simp only [List.mem_cons, List.not_mem_nil, or_false] at hi
  rcases hi with rfl | rfl | rfl | rfl
  · exact ⟨_, encodes_encActivate addr src⟩
  · exact ⟨_, encodes_encDeactivate addr src⟩
  · exact ⟨_, encodes_encFadeStop addr src⟩
  · exact ⟨_, encodes_encReportState addr src⟩

/-- Settles O21: the frame with the empty payload, and the faults of ENCODE with `auto`. -/
theorem emptyPayloadCommandsGiveTheirFrame : Obligations.EmptyPayloadCommandsGiveTheirFrame := by
  refine ⟨fun _ => ⟨rfl, rfl, rfl, rfl⟩, fun addr src v s i cmd ha hs hans h1 h4 hi => ?_,
    fun addr src v s i hi => ?_⟩
  · simp only [List.mem_cons, Prod.mk.injEq, List.not_mem_nil, or_false] at hi
    rcases hi with ⟨rfl, rfl⟩ | ⟨rfl, rfl⟩ | ⟨rfl, rfl⟩ | ⟨rfl, rfl⟩
    · exact (encodes_encActivate addr src).frame ha hs (Nat.zero_le _) hans h1 h4
    · exact (encodes_encDeactivate addr src).frame ha hs (Nat.zero_le _) hans h1 h4
    · exact (encodes_encFadeStop addr src).frame ha hs (Nat.zero_le _) hans h1 h4
    · exact (encodes_encReportState addr src).frame ha hs (Nat.zero_le _) hans h1 h4
  · obtain ⟨name, henc⟩ := exists_encodes_of_mem_emptyPayload hi
    exact ⟨fun ha => henc.badAddress ha s, fun ha hs => henc.badSrc ha (by omega) s,
      fun ha h0 h255 hans hv => henc.badAnswer ha ⟨h0, h255⟩ hans (by omega)⟩

/-- The two operations encode a command with LEVEL_PAYLOAD's payload. -/
theorem exists_encodes_of_mem_level {i : Instr} {addr : Address} {src level rate : Int} {p : Bytes}
    (hbytes : levelBytes addr level rate = .ok p)
    (hi : i ∈ [Instr.encGoto addr src level rate, .encFadeStart addr src level rate]) :
    ∃ name, Encodes i name addr src (.ok p) := by
  simp only [List.mem_cons, List.not_mem_nil, or_false] at hi
  rcases hi with rfl | rfl
  · exact ⟨_, encodes_encGoto hbytes src⟩
  · exact ⟨_, encodes_encFadeStart hbytes src⟩

/-- Settles O22: the frame with the payload `levelBytes` gives, its fault, and then the faults of ENCODE with `auto`. -/
theorem levelCommandsGiveTheirFrame : Obligations.LevelCommandsGiveTheirFrame := by
  refine ⟨fun _ => ⟨rfl, rfl⟩, fun addr src level v rate p s i cmd ha hs hl hlo hhi hform hans h1 h4 hi => ?_,
    fun addr src level rate s t f hexec hf => ?_, fun addr src level rate v p s t i hexec hres hi => ?_⟩
  · have hbytes := levelBytes_of_levelForm (levelChecks_ok ha (by omega) ⟨hlo, hhi⟩) hform
    have hlen : p.length ≤ 24 := (levelBytes_length hbytes).2.trans (by decide)
    simp only [List.mem_cons, Prod.mk.injEq, List.not_mem_nil, or_false] at hi
    rcases hi with ⟨rfl, rfl⟩ | ⟨rfl, rfl⟩
    · exact (encodes_encGoto hbytes src).frame ha hs hlen hans h1 h4
    · exact (encodes_encFadeStart hbytes src).frame ha hs hlen hans h1 h4
  · have hbytes := levelBytes_of_exec_finfo hexec hf
    exact ⟨(encodes_encGoto hbytes src).payload_fault s, (encodes_encFadeStart hbytes src).payload_fault s⟩
  · have hbytes := levelBytes_of_exec_result hexec hres
    have ha := isLink_ne_isDevice_of_levelBytes hbytes
    obtain ⟨name, henc⟩ := exists_encodes_of_mem_level hbytes hi
    exact ⟨fun hs => henc.badSrc ha (by omega) s,
      fun h0 h255 hans hv => henc.badAnswer ha ⟨h0, h255⟩ hans (by omega)⟩

/-- Settles O23: the frame with the one byte `blinkBytes` gives, its faults, and then those of ENCODE with `auto`. -/
theorem blinkGivesItsFrame : Obligations.BlinkGivesItsFrame := by
  refine ⟨fun _ => rfl, fun addr src rate v s ha hs hr hans h1 h4 => ?_, fun addr src rate s ha => ?_,
    fun addr src rate s ha hr => ?_, fun addr src rate s ha h0 h255 hs => ?_,
    fun addr src rate v s ha h0 h255 hs0 hs hans hv => ?_⟩
  · have hbytes : blinkBytes addr (rate : Int) = .ok [BitVec.ofNat 8 rate] := by
      simpa using blinkBytes_ok ha (rate := rate) (by omega)
    exact (encodes_encBlink hbytes src).frame ha hs (by simp) hans h1 h4
  · exact (encodes_encBlink (blinkBytes_badAddress ha rate) src).payload_fault s
  · exact (encodes_encBlink (blinkBytes_badRate ha (by omega)) src).payload_fault s
  · exact (encodes_encBlink (blinkBytes_ok ha ⟨h0, h255⟩) src).badSrc ha (by omega) s
  · exact (encodes_encBlink (blinkBytes_ok ha ⟨h0, h255⟩) src).badAnswer ha ⟨hs0, hs⟩ hans (by omega)

end Sys2Proof.Machine
end

section
/-! PROOFS. The family 44_retransmit: INC_TX adds one to the declared count and recomputes the checksum, gives back a
saturated string, or faults (R170 to R173), and changes at most two bytes (R174). -/

namespace Sys2Proof.Machine

/-! ### The count in the low byte -/

/-- The one byte read at an index is the byte there (R42). -/
theorem memReadByte_of_getElem? {s : Bytes} {i : Nat} {b : Byte} (h : s[i]? = some b) : memReadByte s i = b := by
  obtain ⟨hi, -⟩ := List.getElem?_eq_some_iff.1 h
  simp [memReadByte, memRead, slice, beValue, List.take_add_one, h, hi.le]

/-- The tx_count field is bits 3..2 of the low byte (R172). -/
theorem lowByteTxCount_toNat (low : Byte) : (lowByteTxCount low).toNat = low.toNat / 4 % 4 := by
  simp [lowByteTxCount, Nat.shiftRight_eq_div_pow]

/-- One more in a field that is not full is four more in the byte. The field's values in every byte are worked out one
by one. -/
theorem withLowByteTxCount_succ {low : Byte} (hcount : low.toNat / 4 % 4 < 3) :
    withLowByteTxCount low ((lowByteTxCount low).toNat + 1) = BitVec.ofNat 8 (low.toNat + 4) := by
  have key : ∀ low : Byte, low.toNat / 4 % 4 < 3 →
      withLowByteTxCount low (low.toNat / 4 % 4 + 1) = BitVec.ofNat 8 (low.toNat + 4) := by decide +kernel
  rw [lowByteTxCount_toNat]
  exact key low hcount

/-- There is no carry out of a field that is not full. -/
theorem toNat_add_four {low : Byte} (hcount : low.toNat / 4 % 4 < 3) :
    (BitVec.ofNat 8 (low.toNat + 4)).toNat = low.toNat + 4 := by
  have hlow := low.isLt
  rw [BitVec.toNat_ofNat]
  omega

/-! ### The incremented frame -/

@[simp] theorem bumpFrame_length (bs : Bytes) (low : Byte) : (bumpFrame bs low).length = bs.length := by
  simp [bumpFrame, withByte]

/-- An increment leaves every byte but the one at index 1 and the last as it was (R174). -/
theorem bumpFrame_getElem?_of_ne {bs : Bytes} (low : Byte) {k : Nat} (h1 : k ≠ 1) (hlast : k + 1 ≠ bs.length)
    (hlen : 7 ≤ bs.length) : (bumpFrame bs low)[k]? = bs[k]? := by
  simp only [bumpFrame, withByte, List.length_set]
  rw [sealFrame_getElem? _ (by simp; omega), List.getElem?_set_ne (by omega), List.getElem?_set_ne h1.symm]

/-- An incremented frame satisfies the checksum invariant (R174). -/
theorem checksumHolds_bumpFrame {bs : Bytes} (low : Byte) (hlen : 7 ≤ bs.length) :
    checksumHolds (bumpFrame bs low) = true := by
  refine (checksumHolds_eq_true_iff _).2 (byteSum_sealFrame (List.ne_nil_of_length_pos ?_))
  simp [withByte]
  omega

/-- The incremented frame byte by byte: the rewritten low byte, and the checksum of the others in place of the last
byte (R170). -/
theorem bumpFrame_cons (b0 b1 : Byte) {rest : Bytes} (hrest : rest ≠ []) (hcount : b1.toNat / 4 % 4 < 3) :
    bumpFrame (b0 :: b1 :: rest) b1 =
      (b0 :: BitVec.ofNat 8 (b1.toNat + 4) :: rest.dropLast) ++
        [checksum (b0 :: BitVec.ofNat 8 (b1.toNat + 4) :: rest.dropLast)] := by
  obtain ⟨mid, last, rfl⟩ : ∃ mid last, rest = mid ++ [last] :=
    ⟨_, _, (List.dropLast_append_getLast hrest).symm⟩
  have hbump : bumpFrame (b0 :: b1 :: (mid ++ [last])) b1 =
      sealFrame ((b0 :: BitVec.ofNat 8 (b1.toNat + 4) :: mid) ++ [0]) := by
    simp [bumpFrame, withByte, withLowByteTxCount_succ hcount]
  rw [hbump, sealFrame_append, List.dropLast_concat]

/-! ### What INC_TX computes and answers -/

theorem incrementText_malformedHex {text : Hex} {f : BlockFault} (h : unhex text = .error f) :
    incrementText text = .error f := by
  simp [incrementText, h]

theorem incrementText_short {text : Hex} {bs : Bytes} (h : unhex text = .ok bs) (hlen : bs.length < 7) :
    incrementText text = .error (.malformedFrame bs.length) := by
  simp [incrementText, h, hlen]

/-- On 7 or more bytes the count at index 1 decides between the string itself and the incremented frame (R170, R173). -/
theorem incrementText_long {text : Hex} {bs : Bytes} {low : Byte} (h : unhex text = .ok bs) (hlen : 7 ≤ bs.length)
    (hlow : bs[1]? = some low) :
    incrementText text = if low.toNat / 4 % 4 = 3 then .ok text else .ok (hexOf (bumpFrame bs low)) := by
  simp [incrementText, h, not_lt.2 hlen, memReadByte_of_getElem? hlow, lowByteTxCount_toNat]

/-- INC_TX answers the string computed. -/
theorem exec_incTx_ok {text text' : Hex} (h : incrementText text = .ok text') (s : State) :
    exec (.incTx text) s = .next (s.respond (.ok (.hex text') none)) := by
  simp [exec, execIncTx, h, Except.map]

/-- INC_TX answers the fault that the computation met. -/
theorem exec_incTx_error {text : Hex} {f : BlockFault} (h : incrementText text = .error f) (s : State) :
    exec (.incTx text) s = .next (s.respond (.fault f)) := by
  simp [exec, execIncTx, h, Except.map]

/-- Settles O25: the incremented frame byte by byte, the saturated string, and the two faults. -/
theorem incTxIncrementsAndSaturates : Obligations.IncTxIncrementsAndSaturates := by
  refine ⟨fun _ => rfl, fun text b0 b1 rest s hparse hrest hcount => ?_,
    fun text b0 b1 rest s hparse hrest hcount => ?_,
    fun text f s hparse => exec_incTx_error (incrementText_malformedHex hparse) s,
    fun text bs s hparse hlen => exec_incTx_error (incrementText_short hparse hlen) s⟩
  · have hinc := incrementText_long hparse (by simp; omega) rfl
    rw [if_neg hcount.ne, bumpFrame_cons b0 b1 (List.ne_nil_of_length_pos (by omega)) hcount, checksum_eq_ofNat] at hinc
    exact exec_incTx_ok hinc s
  · have hinc := incrementText_long hparse (by simp; omega) rfl
    rw [if_pos hcount] at hinc
    exact exec_incTx_ok hinc s

/-- Settles O26: a saturated string comes back as it is; else the result is the incremented frame, whose low byte is
four more without a carry out of the count. -/
theorem incTxChangesOnlyCountAndChecksum : Obligations.IncTxChangesOnlyCountAndChecksum := by
  intro text text' bs s t hparse hexec hres
  obtain ⟨_, hinc, htext⟩ := answer_map_result hexec hres
  cases htext
  obtain ⟨_, low, hparse', hlen, hlow, -⟩ := incrementText_ok hinc
  cases hparse.symm.trans hparse'
  rw [incrementText_long hparse hlen hlow] at hinc
  by_cases hcount : low.toNat / 4 % 4 = 3
  · rw [if_pos hcount] at hinc
    cases hinc
    exact ⟨bs, low, low, hparse, rfl, hlow, hlow, by omega, rfl, rfl, fun _ _ _ => rfl, fun _ => rfl,
      fun hlt => absurd hcount hlt.ne⟩
  · rw [if_neg hcount] at hinc
    cases hinc
    have hlt : low.toNat / 4 % 4 < 3 := by omega
    have hlow' := bumpFrame_getElem?_one low hlen
    rw [withLowByteTxCount_succ hlt] at hlow'
    have hadd := toNat_add_four hlt
    refine ⟨bumpFrame bs low, low, _, unhex_hexOf _, bumpFrame_length bs low, hlow, hlow', by omega, by omega,
      by omega, fun k h1 hlast => bumpFrame_getElem?_of_ne low h1 hlast hlen, fun h => absurd h hcount, fun _ => ?_⟩
    rw [exec_cksumVerify (List.ne_nil_of_length_pos (by simp; omega)) t, checksumHolds_bumpFrame low hlen]
    rfl

end Sys2Proof.Machine
end

section
/-! PROOFS. The family 60_exceptions: one response to every request and the end of every run (R200, R224), what a
faulting operation leaves unchanged (R203), and the faults each operation may raise (R201, R202, R204). -/

namespace Sys2Proof.Machine

/-! ### One response to every request, and the end of a run -/

/-- No operation puts a request on the port or takes one off. -/
theorem ExecEffect.request_eq {i : Instr} {s u : State} (h : ExecEffect i s u) : u.request = s.request := by
  cases h <;> rfl

/-- No operation touches the host's list. -/
theorem ExecEffect.pending_eq {i : Instr} {s u : State} (h : ExecEffect i s u) : u.pending = s.pending := by
  cases h <;> rfl

/-- Settles O30: with a request on the port `step_spec` leaves two cases, its operation's response or IllegalOp, both
given after the request was taken. -/
theorem everyRequestGetsOneResponse : Obligations.EveryRequestGetsOneResponse := by
  intro s r hreq
  rcases step_spec s with
    ⟨hidle, -, -⟩ | ⟨_, _, hidle, -, -⟩ | ⟨_, i, u, resp, -, -, heff, hstep⟩ | ⟨_, op, -, -, hstep⟩
  · cases hidle.symm.trans hreq
  · cases hidle.symm.trans hreq
  · exact ⟨_, resp, hstep, rfl, heff.request_eq, heff.pending_eq⟩
  · exact ⟨_, _, hstep, rfl, rfl, rfl⟩

theorem core_run_succ {s t : State} (h : step s = .next t) (k : Nat) : core.run (k + 1) s = core.run k t := by
  simp only [Host.Core.run, core, h]

/-- From a state with a free port the host's list is served in two steps a request: the host presents it, and the step
after serves it. -/
theorem core_run_of_idle {rs : List Request} {s : State} (hidle : s.request = none) (hpend : s.pending = rs) :
    ∃ t : State, core.run (2 * rs.length) s = .next t ∧ t.endOfRun = true := by
  induction rs generalizing s with
  | nil => exact ⟨s, rfl, by simp [State.endOfRun, hidle, hpend]⟩
  | cons r rest ih =>
    have hpresent : step s = .next (s.present r rest) := idleStepIsTheHostsTurn.1 s r rest hidle hpend
    obtain ⟨u, -, hserve, -, huidle, hupend⟩ := everyRequestGetsOneResponse (s.present r rest) r rfl
    obtain ⟨t, hrun, hend⟩ := ih huidle hupend
    refine ⟨t, ?_, hend⟩
    calc core.run (2 * rest.length + 1 + 1) s
        = core.run (2 * rest.length + 1) (s.present r rest) := core_run_succ hpresent _
      _ = core.run (2 * rest.length) u := core_run_succ hserve _
      _ = .next t := hrun

/-- Settles O31: one step frees the port where a request stands on it, and `core_run_of_idle` serves the list. -/
theorem everyRunEnds : Obligations.EveryRunEnds := by
  intro s
  cases hreq : s.request with
  | none => exact core_run_of_idle hreq rfl
  | some r =>
    obtain ⟨u, -, hserve, -, huidle, hupend⟩ := everyRequestGetsOneResponse s r hreq
    obtain ⟨t, hrun, hend⟩ := core_run_of_idle huidle hupend
    exact ⟨t, (core_run_succ hserve _).trans hrun, hend⟩

/-! ### What a faulting operation leaves unchanged -/

/-- The response port's views where a fault stands on it (R22). -/
theorem State.views_of_fault {t : State} {f : BlockFault} (h : t.response = some (.fault f)) :
    t.status = some .fault ∧ t.fcodePort = some (fcode f) ∧ t.result = none ∧ t.invoke = none := by
  simp [State.status, State.fcodePort, State.finfo, State.result, State.invoke, h]

/-- Settles O34: REGISTER and DISPATCH answer Ok, and each of `ExecEffect`'s other cases leaves the state alone or makes
the operation's one query. -/
theorem faultKeepsOnlyTheQuery : Obligations.FaultKeepsOnlyTheQuery := by
  intro i s t f hexec hresp
  obtain ⟨-, -, hresult, -⟩ := State.views_of_fault hresp
  have hregister : ∀ code h, i ≠ .register code h := by
    rintro code h rfl
    cases (exec_register_response hexec).symm.trans hresp
  have hdispatch : ∀ msg, i ≠ .dispatch msg := by
    rintro msg rfl
    cases hexec
    cases hresp
  refine ⟨hresult, hregister, hdispatch, ?_⟩
  obtain ⟨u, resp, rfl, heff⟩ := exec_next_effect hexec
  cases hresp
  cases heff with
  | pure | noQuery => exact .inl rfl
  | query addr hi => exact .inr ⟨addr, hi, rfl⟩
  | registerKnown code h hi | registerNew code h hi => exact absurd hi (hregister code h)
  | dispatch msg hi => exact absurd hi (hdispatch msg)

/-! ### The faults of the checks -/

/-- An answer that is a fault is the fault of the computation. -/
theorem answer_map_error {α : Type} {g : α → Result} {e : Except BlockFault α} {s t : State} {f : BlockFault}
    (hans : answer s (e.map g) = .next t) (hresp : t.response = some (.fault f)) : e = .error f := by
  cases e with
  | ok x =>
    cases hans
    cases hresp
  | error g =>
    cases hans
    cases hresp
    rfl

theorem checkAddress_eq_error {addr : Address} {f : BlockFault} (h : checkAddress addr = .error f) :
    ∃ b, f = .badAddress b b := by
  unfold checkAddress at h
  split at h <;> cases h
  next ha => exact ⟨addr.isDevice, by rw [ha]⟩

theorem checkContract_eq_error {field : ContractField} {lo hi v : Int} {f : BlockFault}
    (h : checkContract field lo hi v = .error f) : f = .contractViolation field v := by
  unfold checkContract at h
  split at h <;> cases h
  rfl

theorem checkWord_eq_error {v : Int} {f : BlockFault} (h : checkWord v = .error f) :
    f = .contractViolation .cw v := by
  unfold checkWord at h
  split at h <;> cases h
  exact checkContract_eq_error ‹_›

theorem checkArg_eq_error {field : ArgField} {lo hi v : Int} {f : BlockFault} (h : checkArg field lo hi v = .error f) :
    f = .argRange field (some v) := by
  unfold checkArg at h
  split at h <;> cases h
  rfl

theorem channelByte_eq_error {channel : Option Nat} {f : BlockFault} (h : channelByte channel = .error f) :
    ∃ v, f = .argRange .channel v := by
  unfold channelByte at h
  split at h
  · cases h
    exact ⟨none, rfl⟩
  · split at h <;> cases h
    exact ⟨_, rfl⟩

/-! ### The faults of the computations -/

theorem unpackOperand_mayFault {cw : Int} {f : BlockFault} (h : unpackOperand cw = .error f) :
    (Instr.unpackCw cw).mayFault f := by
  unfold unpackOperand at h
  split at h <;> cases h
  exact ⟨cw, checkWord_eq_error ‹_›⟩

theorem parseFrame_mayFault {frame : Bytes} {f : BlockFault} (h : parseFrame frame = .error f) :
    (Instr.decode frame).mayFault f := by
  unfold parseFrame at h
  split at h <;> cases h
  exact ⟨_, rfl, ‹_›⟩

theorem verifyFrame_mayFault {frame : Bytes} {f : BlockFault} (h : verifyFrame frame = .error f) :
    (Instr.cksumVerify frame).mayFault f := by
  unfold verifyFrame at h
  split at h <;> cases h
  rfl

theorem unhex_mayFault {text : Hex} {f : BlockFault} (h : unhex text = .error f) : (Instr.hexParse text).mayFault f := by
  rcases unhex_spec text with ⟨bs, hok⟩ | ⟨i, herr⟩
  · cases hok.symm.trans h
  · cases herr.symm.trans h
    exact ⟨i, rfl⟩

theorem incrementText_mayFault {text : Hex} {f : BlockFault} (h : incrementText text = .error f) :
    (Instr.incTx text).mayFault f := by
  unfold incrementText at h
  split at h
  · cases h
    exact .inl (unhex_mayFault ‹_›)
  · split at h
    · cases h
      exact .inr ⟨_, rfl, ‹_›⟩
    · dsimp only at h
      split at h <;> cases h

theorem levelChecks_eq_error {addr : Address} {level rate : Int} {f : BlockFault}
    (h : levelChecks addr level rate = .error f) : (∃ b, f = .badAddress b b) ∨ ∃ field v, f = .argRange field v := by
  unfold levelChecks at h
  split at h
  · cases h
    exact .inl (checkAddress_eq_error ‹_›)
  · split at h
    · cases h
      exact .inr ⟨_, _, checkArg_eq_error ‹_›⟩
    · exact .inr ⟨_, _, checkArg_eq_error h⟩

theorem levelBytes_mayFault {addr : Address} {level rate : Int} {f : BlockFault}
    (h : levelBytes addr level rate = .error f) : (Instr.levelPayload addr level rate).mayFault f := by
  unfold levelBytes at h
  split at h
  · cases h
    exact levelChecks_eq_error ‹_›
  · dsimp only at h
    split at h
    · split at h <;> cases h
      exact .inr ⟨_, channelByte_eq_error ‹_›⟩
    · split at h <;> cases h

theorem blinkBytes_eq_error {addr : Address} {rate : Int} {f : BlockFault} (h : blinkBytes addr rate = .error f) :
    (∃ b, f = .badAddress b b) ∨ ∃ v, f = .argRange .rate v := by
  unfold blinkBytes at h
  split at h
  · cases h
    exact .inl (checkAddress_eq_error ‹_›)
  · split at h <;> cases h
    exact .inr ⟨_, checkArg_eq_error ‹_›⟩

theorem blinkBytes_length {addr : Address} {rate : Int} {p : Bytes} (h : blinkBytes addr rate = .ok p) :
    p.length = 1 := by
  unfold blinkBytes at h
  split at h
  · cases h
  · split at h <;> cases h
    rfl

/-- Where BUILD_CW's computation faults: in its checks, or on the source's answer (R130, R131). -/
theorem buildWord_eq_error {addr : Address} {rep ack : Int} {s : State} {f : BlockFault}
    (h : (buildWord addr rep ack s).2 = .error f) :
    buildCwChecks addr rep ack = .error f ∨ ∃ v, f = .contractViolation .txCount v := by
  rcases buildWord_spec addr rep ack s with ⟨g, hchecks, hout⟩ | ⟨-, -, hout⟩ | ⟨-, -, hout⟩ <;>
    rw [hout] at h <;> cases h
  · exact .inl hchecks
  · exact .inr ⟨_, rfl⟩

theorem buildWord_mayFault {addr : Address} {rep ack : Int} {s : State} {f : BlockFault}
    (h : (buildWord addr rep ack s).2 = .error f) : (Instr.buildCw addr rep ack).mayFault f := by
  rcases buildWord_eq_error h with hchecks | ⟨v, rfl⟩
  · rcases buildCwChecks_error hchecks with ⟨ha, rfl⟩ | ⟨-, rfl⟩ | ⟨-, rfl⟩
    · exact .inl ⟨addr.isDevice, by rw [ha]⟩
    · exact .inr ⟨_, _, rfl, .inl rfl⟩
    · exact .inr ⟨_, _, rfl, .inr (.inl rfl)⟩
  · exact .inr ⟨_, _, rfl, .inr (.inr rfl)⟩

/-! ### The faults of ENCODE and of the commands -/

/-- The faults ENCODE's computation can meet, each with the operand that causes it (R135, R139): cmd is at fault outside
a byte only, cw where it is an explicit word only, the length above 24 bytes of payload only. -/
inductive EncodeFault (cw : CwOperand) (cmd : Int) (payload : Bytes) : BlockFault → Prop where
  | badAddress (b : Bool) : EncodeFault cw cmd payload (.badAddress b b)
  | src (v : Int) : EncodeFault cw cmd payload (.contractViolation .src v)
  | cmd (h : ¬(0 ≤ cmd ∧ cmd ≤ 255)) : EncodeFault cw cmd payload (.contractViolation .cmd cmd)
  | word (v : Int) (h : cw = .word v) : EncodeFault cw cmd payload (.contractViolation .cw v)
  | txCount (v : Int) : EncodeFault cw cmd payload (.contractViolation .txCount v)
  | tooLong (h : 24 < payload.length) : EncodeFault cw cmd payload (.frameTooLong (7 + payload.length))

/-- Where ENCODE's computation faults: in its checks, in its control word, or in the finish (R135). -/
theorem encodeFrame_eq_error {cw : CwOperand} {addr : Address} {src cmd : Int} {payload : Bytes} {s : State}
    {f : BlockFault} (h : (encodeFrame cw addr src cmd payload s).2 = .error f) :
    encodeChecks addr src cmd = .error f ∨ (encodeWord cw addr s).2 = .error f ∨
      ∃ c srcByte cmdByte, finishFrame s.params.lenMerge c addr srcByte cmdByte payload = .error f := by
  rw [encodeFrame_snd] at h
  cases hchecks : encodeChecks addr src cmd with
  | error g =>
    rw [hchecks] at h
    cases h
    exact .inl rfl
  | ok ids =>
    cases hword : (encodeWord cw addr s).2 with
    | error g =>
      rw [hchecks, hword] at h
      cases h
      exact .inr (.inl rfl)
    | ok c =>
      rw [hchecks, hword] at h
      exact .inr (.inr ⟨c, _, _, h⟩)

theorem encodeChecks_fault {addr : Address} {src cmd : Int} {f : BlockFault}
    (h : encodeChecks addr src cmd = .error f) (cw : CwOperand) (payload : Bytes) : EncodeFault cw cmd payload f := by
  rcases encodeChecks_spec addr src cmd with ⟨ha, hout⟩ | ⟨-, -, hout⟩ | ⟨-, -, hc, hout⟩ | ⟨-, -, -, hout⟩ <;>
    cases hout.symm.trans h
  · rw [ha]
    exact .badAddress _
  · exact .src src
  · exact .cmd hc

/-- The control word of `auto` is BUILD_CW's with rep = 0 and ack = 0, which are in range (R136). -/
theorem encodeWord_fault {cw : CwOperand} {addr : Address} {s : State} {f : BlockFault}
    (h : (encodeWord cw addr s).2 = .error f) (cmd : Int) (payload : Bytes) : EncodeFault cw cmd payload f := by
  cases cw with
  | word v =>
    cases checkWord_eq_error h
    exact .word v rfl
  | auto =>
    rcases buildWord_eq_error h with hchecks | ⟨v, rfl⟩
    · rcases buildCwChecks_error hchecks with ⟨ha, rfl⟩ | ⟨hrep, -⟩ | ⟨hack, -⟩
      · rw [ha]
        exact .badAddress _
      · exact absurd (by decide) hrep
      · exact absurd (by decide) hack
    · exact .txCount v

theorem finishFrame_fault {mode : LenMerge} {c : ControlWord} {addr : Address} {src cmd : Byte} {payload : Bytes}
    {f : BlockFault} (h : finishFrame mode c addr src cmd payload = .error f) (cw : CwOperand) (v : Int) :
    EncodeFault cw v payload f := by
  by_cases hlen : payload.length ≤ 24
  · cases (finishFrame_ok hlen).symm.trans h
  · cases (finishFrame_error (by omega)).symm.trans h
    exact .tooLong (by omega)

theorem encodeFrame_fault {cw : CwOperand} {addr : Address} {src cmd : Int} {payload : Bytes} {s : State}
    {f : BlockFault} (h : (encodeFrame cw addr src cmd payload s).2 = .error f) : EncodeFault cw cmd payload f := by
  rcases encodeFrame_eq_error h with hchecks | hword | ⟨_, _, _, hfinish⟩
  · exact encodeChecks_fault hchecks cw payload
  · exact encodeWord_fault hword cmd payload
  · exact finishFrame_fault hfinish cw cmd

theorem EncodeFault.mayFault {cw : CwOperand} {cmd : Int} {payload : Bytes} {f : BlockFault}
    (h : EncodeFault cw cmd payload f) (addr : Address) (src : Int) :
    (Instr.encode cw addr src cmd payload).mayFault f := by
  cases h with
  | badAddress b => exact .inl ⟨b, rfl⟩
  | tooLong hlen => exact .inr (.inl ⟨_, rfl, by omega⟩)
  | src | cmd | word | txCount => exact .inr (.inr ⟨_, _, rfl, by simp⟩)

/-- The faults every command-specific encoder may raise once its payload is computed (R150, R201). -/
def CommandFault (f : BlockFault) : Prop :=
  (∃ b, f = .badAddress b b) ∨ ∃ field v, f = .contractViolation field v ∧ (field = .src ∨ field = .txCount)

/-- With `auto`, a byte for cmd and a payload of 24 bytes or less, ENCODE cannot fault on cw, cmd or the length. -/
theorem EncodeFault.commandFault {code : Byte} {payload : Bytes} {f : BlockFault}
    (h : EncodeFault .auto (code.toNat : Int) payload f) (hlen : payload.length ≤ 24) : CommandFault f := by
  cases h with
  | badAddress b => exact .inl ⟨b, rfl⟩
  | src v => exact .inr ⟨_, v, rfl, .inl rfl⟩
  | txCount v => exact .inr ⟨_, v, rfl, .inr rfl⟩
  | word v hcw => cases hcw
  | cmd hcmd => exact absurd ⟨by omega, by have := code.isLt; omega⟩ hcmd
  | tooLong hlong => exact absurd hlen (by omega)

/-- A command faults on its payload, or as ENCODE with `auto` does (R150). -/
theorem encodeCommand_fault {name : Command} {addr : Address} {src : Int} {payload : Except BlockFault Bytes}
    {s : State} {f : BlockFault} (h : (encodeCommand name addr src payload s).2 = .error f)
    (hlen : ∀ p, payload = .ok p → p.length ≤ 24) : payload = .error f ∨ CommandFault f := by
  cases payload with
  | error g =>
    cases h
    exact .inl rfl
  | ok p => exact .inr ((encodeFrame_fault h).commandFault (hlen p rfl))

theorem encodeCommand_emptyPayload_fault {name : Command} {addr : Address} {src : Int} {s : State} {f : BlockFault}
    (h : (encodeCommand name addr src (.ok []) s).2 = .error f) : CommandFault f :=
  (encodeCommand_fault h fun p hp => by cases hp; simp).resolve_left nofun

theorem encodeCommand_level_fault {name : Command} {addr : Address} {src level rate : Int} {s : State}
    {f : BlockFault} (h : (encodeCommand name addr src (levelBytes addr level rate) s).2 = .error f) :
    (Instr.encGoto addr src level rate).mayFault f := by
  have hlen : ∀ p, levelBytes addr level rate = .ok p → p.length ≤ 24 :=
    fun p hp => (levelBytes_length hp).2.trans (by decide)
  rcases encodeCommand_fault h hlen with hlevel | hbad | hcontract
  · exact (levelBytes_mayFault hlevel).imp_right .inl
  · exact .inl hbad
  · exact .inr (.inr hcontract)

theorem encodeCommand_blink_fault {name : Command} {addr : Address} {src rate : Int} {s : State} {f : BlockFault}
    (h : (encodeCommand name addr src (blinkBytes addr rate) s).2 = .error f) :
    (Instr.encBlink addr src rate).mayFault f := by
  have hlen : ∀ p, blinkBytes addr rate = .ok p → p.length ≤ 24 :=
    fun p hp => (blinkBytes_length hp).le.trans (by decide)
  rcases encodeCommand_fault h hlen with hblink | hbad | hcontract
  · exact (blinkBytes_eq_error hblink).imp_right .inl
  · exact .inl hbad
  · exact .inr (.inr hcontract)

/-! ### The faults of the operations -/

/-- A fault that an operation answers is the fault of its computation, which R201 lists for it. -/
theorem mayFault_of_exec {i : Instr} {s t : State} {f : BlockFault} (hexec : exec i s = .next t)
    (hresp : t.response = some (.fault f)) : i.mayFault f := by
  cases i with
  | register => cases (exec_register_response hexec).symm.trans hresp
  | dispatch | cksumGen | hexSerialize =>
    cases hexec
    cases hresp
  | unpackCw => exact unpackOperand_mayFault (answer_map_error hexec hresp)
  | decode => exact parseFrame_mayFault (answer_map_error hexec hresp)
  | cksumVerify => exact verifyFrame_mayFault (answer_map_error hexec hresp)
  | hexParse => exact unhex_mayFault (answer_map_error hexec hresp)
  | levelPayload => exact levelBytes_mayFault (answer_map_error hexec hresp)
  | incTx => exact incrementText_mayFault (answer_map_error hexec hresp)
  | buildCw => exact buildWord_mayFault (answer_map_error hexec hresp)
  | encode => exact (encodeFrame_fault (answer_map_error hexec hresp)).mayFault _ _
  | encActivate | encDeactivate | encFadeStop | encReportState =>
    exact encodeCommand_emptyPayload_fault (answer_map_error hexec hresp)
  | encGoto | encFadeStart => exact encodeCommand_level_fault (answer_map_error hexec hresp)
  | encBlink => exact encodeCommand_blink_fault (answer_map_error hexec hresp)

/-- Settles O33: `mayFault_of_exec` and the views of the response port; the codes are those `fcode` writes. -/
theorem onlyListedFaultsAreRaised : Obligations.OnlyListedFaultsAreRaised :=
  ⟨fun _ _ _ _ hexec hresp => ⟨mayFault_of_exec hexec hresp, State.views_of_fault hresp⟩,
    fun _ => ⟨rfl, rfl, rfl⟩, fun _ _ => rfl, fun _ _ => rfl, fun _ _ => rfl, fun _ => rfl⟩

end Sys2Proof.Machine
end

section
/-! PROOFS. The family 70_reset_and_hazards: a reset of the block, and one that comes after the query of the transaction
in progress (R230, R231). -/

namespace Sys2Proof.Machine

/-- The state right after reset, but for what is not the block's: the source, the parameters and the host's list (R230,
R231). -/
theorem State.blockReset_eq_reset (s : State) :
    s.blockReset = { State.reset with
      txAnswers := s.txAnswers, txDraws := s.txDraws, params := s.params, pending := s.pending } := rfl

/-- A query that outlives a reset leaves what a query made just after the reset leaves, with the ports cleared again
(I20). -/
theorem State.resetAfterQuery_eq_query_blockReset (s : State) (networkId targetId : Byte) :
    s.resetAfterQuery networkId targetId = (s.blockReset.query networkId targetId).takeRequest := rfl

/-- REG and HIST are those of the state after reset, which meet the invariant; the empty HIST records no query, and
CMD_CODE stays. -/
theorem State.Inv.blockReset {s : State} (hs : s.Inv) : s.blockReset.Inv where
  registryWf := resetMeetsTheInvariant.registryWf
  registryHist := resetMeetsTheInvariant.registryHist
  history := resetMeetsTheInvariant.history
  queries := Nat.zero_le s.txDraws
  codes := hs.codes

theorem State.Inv.resetAfterQuery {s : State} (hs : s.Inv) (networkId targetId : Byte) :
    (s.resetAfterQuery networkId targetId).Inv := by
  rw [State.resetAfterQuery_eq_query_blockReset]
  exact (hs.blockReset.query networkId targetId).takeRequest

/-- Of the query for an Address a reset leaves the source advanced by it, and its event as all of HIST (R231, I20). -/
theorem State.resetAfterQuery_eq_blockReset_afterQuery (s : State) (addr : Address) :
    s.resetAfterQuery addr.networkId addr.targetId =
      { (s.afterQuery addr (s.nextTxAnswer addr.networkId addr.targetId)).blockReset with
        hist := [.txQuery addr.networkId addr.targetId (s.nextTxAnswer addr.networkId addr.targetId)] } := by
  rw [State.resetAfterQuery, State.query_eq_afterQuery rfl]

/-- Settles O43: both resets keep the invariant, and each is the state its equation above writes out. -/
theorem blockResetClearsTheBlock : Obligations.BlockResetClearsTheBlock := by
  intro s
  have hinv : s.Inv → s.blockReset.Inv ∧ ∀ net tgt : Byte, (s.resetAfterQuery net tgt).Inv :=
    fun hs => ⟨hs.blockReset, hs.resetAfterQuery⟩
  have hreg : ∀ code : Byte, s.blockReset.handlers code = [] := fun _ => rfl
  exact ⟨hinv, s.blockReset_request, s.blockReset_response, hreg, s.blockReset_hist, s.blockReset_eq_reset,
    s.resetAfterQuery_eq_blockReset_afterQuery⟩

end Sys2Proof.Machine
end
